-- ==== Sys2Proof/Word.lean ====
section
/-! DEFINITION. The word types of the HFC: bytes, addresses, temperatures, masks and the 8-byte frame
(00_scope.md R7, R8; 10_state.md R21, R23). Reading and writing a lane stands in Machine/Codec.lean. -/

namespace Sys2Proof

/-- 00_scope.md R8: a byte is 8 bits, bit 0 the least significant. -/
abbrev Byte := BitVec 8

/-- 10_state.md R23: `Addr`, 4 bits, 0 to 15; 0 is the primary controller. -/
abbrev Addr := BitVec 4

/-- 10_state.md R23: `Temp`, unsigned fixed point, 8 integer and 8 fraction bits. -/
abbrev Temp := BitVec 16

/-- 10_state.md R23: `ZoneMask`, bit `z-1` stands for zone `z`, `z` from 1 to 8. -/
abbrev ZoneMask := BitVec 8

/-- 00_scope.md R8: a frame is an array of 8 bytes `B[0]` to `B[7]`; also the buffer BUF of
10_state.md R21, "8 byte lanes ... each 8 bits, no aliases, no hardwired lane, no banks". -/
structure Frame where
  b0 : Byte := 0
  b1 : Byte := 0
  b2 : Byte := 0
  b3 : Byte := 0
  b4 : Byte := 0
  b5 : Byte := 0
  b6 : Byte := 0
  b7 : Byte := 0
deriving DecidableEq, Repr

/-- The all-zero frame: "`ENCODE` starts from an all-zero buffer" (10_state.md R21). -/
def Frame.zero : Frame := ⟨0, 0, 0, 0, 0, 0, 0, 0⟩

end Sys2Proof
end

