-- ==== Sys2Proof/Types.lean ====
section
/-! DEFINITION. The value types of 10_state.md R22 to R29: roles, stages, the records a packet's body
carries, the packet, and the index types of the dirty bitsets. A field not written is 0
(30_encoding.md R103), so every field's default is its zero. -/

namespace Sys2Proof

/-- 10_state.md R23: the role tag of an address. -/
inductive Role where
  | indoorUnit
  | controller
deriving DecidableEq, Repr

/-- 00_scope.md R6: the protocol variant strap. -/
inductive Variant where
  | legacy
  | zoned
deriving DecidableEq, Repr

/-- 10_state.md R22: the seven stage values of `S.stage`. -/
inductive Stage where
  | detectFeatureSupport
  | featureRequest
  | zoneRequestEnabled
  | findNextControllerTx
  | findNextControllerRx
  | zoneRequestActive
  | complete
deriving DecidableEq, Repr

/-- 10_state.md R24: `ConfigCommon`, the device-facing fields. -/
structure ConfigCommon where
  enabled : Bool := false
  economy : Bool := false
  setpoint : BitVec 7 := 0
  testRun : Bool := false
  mode : BitVec 3 := 0
  fanSpeed : BitVec 3 := 0
  swingVertical : Bool := false
  swingHorizontal : Bool := false
deriving DecidableEq, Repr

/-- 10_state.md R24: `IUSub`, what only a Config of the indoor unit carries. -/
structure IUSub where
  standbyMode : Bool := false
  error : Bool := false
  lockAll : Bool := false
  lockEnabled : Bool := false
  lockMode : Bool := false
  lockSetpoint : Bool := false
  lockFilterReset : Bool := false
  filterTimerExpired : Bool := false
  seenPrimaryController : Bool := false
  seenSecondaryController : Bool := false
  unknownFlags : BitVec 2 := 0
deriving DecidableEq, Repr

/-- 10_state.md R24: `CtlSub`, what only a Config of a controller carries. -/
structure CtlSub where
  write : Bool := false
  temperature : Temp := 0
  useControllerSensor : Bool := false
  advanceVerticalLouver : Bool := false
  advanceHorizontalLouver : Bool := false
  resetFilterTimer : Bool := false
  maintenance : Bool := false
deriving DecidableEq, Repr

/-- 10_state.md R24: `ConfigBody = { common, iu, ctl }`. -/
structure ConfigBody where
  common : ConfigCommon := {}
  iu : IUSub := {}
  ctl : CtlSub := {}
deriving DecidableEq, Repr

/-- 10_state.md R24: `Features`, a capability bitset of 17 fields of 1 bit. -/
structure Features where
  modeAuto : Bool := false
  modeHeat : Bool := false
  modeFan : Bool := false
  modeDry : Bool := false
  modeCool : Bool := false
  fanQuiet : Bool := false
  fanLow : Bool := false
  fanMedium : Bool := false
  fanHigh : Bool := false
  fanAuto : Bool := false
  filterTimer : Bool := false
  sensorSwitching : Bool := false
  maintenance : Bool := false
  economyMode : Bool := false
  horizontalLouvers : Bool := false
  verticalLouvers : Bool := false
  zones : Bool := false
deriving DecidableEq, Repr

/-- The five zone fields of `S.zcur` and `S.zchg` (10_state.md R29), which are `ZoneConfigBody`
(R24) without its `Write`. -/
structure ZoneFields where
  activeZones : ZoneMask := 0
  zoneGroupDay : ZoneMask := 0
  zoneGroupNight : ZoneMask := 0
  dayGroupActive : Bool := false
  nightGroupActive : Bool := false
deriving DecidableEq, Repr

/-- 10_state.md R24: `ZoneConfigBody`; `Write` is "Controller-sourced only". -/
structure ZoneConfigBody where
  zones : ZoneFields := {}
  write : Bool := false
deriving DecidableEq, Repr

/-- 10_state.md R24: `ZoneFunctionBody`. -/
structure ZoneFunctionBody where
  enabledZones : ZoneMask := 0
  commonZone : Bool := false
deriving DecidableEq, Repr

/-- 10_state.md R24: `FunctionBody`, "a function id/value/unit triple". -/
structure FunctionBody where
  id : BitVec 8 := 0
  value : BitVec 8 := 0
  unit : BitVec 4 := 0
deriving DecidableEq, Repr

/-- 10_state.md R24: the body of a packet, "one of the above or `None`, chosen by the kind". -/
inductive Body where
  | config (b : ConfigBody)
  | error (code : Byte)
  | features (f : Features)
  | function (b : FunctionBody)
  | status
  | zoneConfig (b : ZoneConfigBody)
  | zoneFunction (b : ZoneFunctionBody)
  | none
deriving DecidableEq, Repr

/-- An address operand of a packet header. `Addr` is 0 to 15 (10_state.md R23); the number is held in
8 bits because `ENCODE` may be given 16, the neighbour of controller 15, and truncates it
(40_codec_primitives.md R117 item 2, 41_codec_frames.md R131). DECODE only makes 0 to 15. -/
structure Address where
  role : Role := .indoorUnit
  addr : BitVec 8 := 0
deriving DecidableEq, Repr

/-- 10_state.md R24: `Packet = { src, tok, type_code : 3 bits, body }`. -/
structure Packet where
  src : Address
  tok : Address
  typeCode : BitVec 3
  body : Body
deriving DecidableEq, Repr

/-- 30_encoding.md R74: the kinds, each with one payload layout. -/
inductive Kind where
  | configIU
  | configC
  | error
  | features
  | function
  | status
  | zoneConfigIU
  | zoneConfigC
  | zoneFunctionIU
  | zoneFunctionC
  | unknown
deriving DecidableEq, Repr

/-- 10_state.md R28: the 12 fields that have a dirty bit, in index order. -/
inductive ConfigField where
  | enabled
  | economy
  | setpoint
  | testRun
  | mode
  | fanSpeed
  | swingVertical
  | swingHorizontal
  | advanceVerticalLouver
  | advanceHorizontalLouver
  | resetFilterTimer
  | maintenance
deriving DecidableEq, Repr

/-- 10_state.md R29: the 5 fields that have a zone dirty bit, in index order. -/
inductive ZoneField where
  | activeZones
  | zoneGroupDay
  | zoneGroupNight
  | dayGroupActive
  | nightGroupActive
deriving DecidableEq, Repr

/-- 10_state.md R24: the lock flags of `IUSub`. -/
inductive LockFlag where
  | lockAll
  | lockEnabled
  | lockMode
  | lockSetpoint
  | lockFilterReset
deriving DecidableEq, Repr

/-- The commands that make the lock check of 43_host_commands.md R212: all but
SET_CURRENT_TEMPERATURE, QUEUE_FUNCTION and REINIT, which are "never locked". -/
inductive LockCmd where
  | setEnabled
  | setEconomy
  | setTestRun
  | setSetpoint
  | setMode
  | setFanSpeed
  | setVerticalSwing
  | setHorizontalSwing
  | advanceVerticalLouver
  | advanceHorizontalLouver
  | useSensor
  | resetFilter
  | maintenance
  | setZone
  | setZoneGroupDay
  | setZoneGroupNight
deriving DecidableEq, Repr

/-- 40_codec_primitives.md R113: the parity operand, 0 even, 1 odd. -/
inductive Parity where
  | even
  | odd
deriving DecidableEq, Repr

/-- 30_encoding.md R76: a descriptor `(byte, mask, shift)`. `byte` is a number so that the check
`byte <= 7` of R77 can fail. -/
structure Descriptor where
  byte : Nat
  mask : Byte
  shift : Nat
deriving DecidableEq, Repr

/-- 30_encoding.md R76: the field names of all kinds (`Maintenance` of `Features` is
`featMaintenance`, that of `CtlSub` is `maintenance`; `Error` of `IUSub` is `errorFlag`). -/
inductive FieldName where
  | enabled
  | economy
  | setpoint
  | testRun
  | mode
  | fanSpeed
  | swingVertical
  | swingHorizontal
  | standbyMode
  | errorFlag
  | lockAll
  | lockEnabled
  | lockMode
  | lockSetpoint
  | lockFilterReset
  | filterTimerExpired
  | seenPrimaryController
  | seenSecondaryController
  | unknownFlags
  | write
  | temperature
  | useControllerSensor
  | advanceVerticalLouver
  | advanceHorizontalLouver
  | resetFilterTimer
  | maintenance
  | code
  | modeAuto
  | modeHeat
  | modeFan
  | modeDry
  | modeCool
  | fanQuiet
  | fanLow
  | fanMedium
  | fanHigh
  | fanAuto
  | filterTimer
  | sensorSwitching
  | featMaintenance
  | economyMode
  | horizontalLouvers
  | verticalLouvers
  | zones
  | id
  | value
  | unit
  | activeZones
  | groupMapLo
  | groupMapHi
  | dayGroupActive
  | nightGroupActive
  | enabledZones
  | commonZone
deriving DecidableEq, Repr

end Sys2Proof
end

