-- ==== Sys2Proof/Config.lean ====
section
/-! DEFINITION. The static configuration record `CFG` of 00_scope.md R6, "fixed from reset to reset".
Its reference contents stand in Machine/Tables.lean, its well-formedness in WellFormed.lean. -/

namespace Sys2Proof

/-- The layout rows of one variant, one list for each kind that has fields (30_encoding.md R76). -/
structure VariantLayout where
  configIU : List (FieldName × Descriptor)
  configC : List (FieldName × Descriptor)
  error : List (FieldName × Descriptor)
  features : List (FieldName × Descriptor)
  function : List (FieldName × Descriptor)
  zoneConfigIU : List (FieldName × Descriptor)
  zoneConfigC : List (FieldName × Descriptor)
  zoneFunctionIU : List (FieldName × Descriptor)
deriving DecidableEq, Repr

/-- 30_encoding.md R76: the field layout table `CFG.LAYOUT`, both variants. -/
structure Layout where
  legacy : VariantLayout
  zoned : VariantLayout
deriving DecidableEq, Repr

/-- One entry of `CFG.FIXUP` (30_encoding.md R92): the OR-mask of a (variant, type code, role). -/
structure FixupRow where
  variant : Variant
  code : BitVec 3
  role : Role
  mask : Frame
deriving DecidableEq, Repr

/-- 00_scope.md R6: the configuration. "It is not state: no operation writes it". -/
structure Cfg where
  /-- `CFG.CTRL_ADDR`: this controller's bus address; 0 means primary. -/
  ctrlAddr : Addr
  /-- `CFG.VARIANT`. -/
  variant : Variant
  /-- `CFG.LAYOUT`. -/
  layout : Layout
  /-- `CFG.FIXUP`, by its rows; an entry not listed is all zero (30_encoding.md R93). -/
  fixup : List FixupRow
  /-- `CFG.IU_TOKEN_ADDR`. -/
  iuTokenAddr : Addr
  /-- `CFG.DEFAULT_FEATURES`. -/
  defaultFeatures : Features
  /-- `CFG.FUNC_QUEUE_DEPTH`. -/
  funcQueueDepth : Nat
  /-- `CFG.SELF_CLEARING`. -/
  selfClearing : List ConfigField
  /-- `CFG.LOCK_MAP`: the pairs (command, flag that refuses it). -/
  lockMap : List (LockCmd × LockFlag)
deriving DecidableEq, Repr

end Sys2Proof
end

