-- ==== Sys2Proof/Machine/Tables.lean ====
section
/-! DEFINITION. The tables of 30_encoding.md and 43_host_commands.md R212: packet type codes, kind
selection, the field names and widths of each kind, and the reference contents of the configuration
(LAYOUT_REF, FIXUP_REF and the other defaults of 00_scope.md R6). -/

namespace Sys2Proof

/-- 10_state.md R22: the numeric code of a stage. -/
def Stage.code : Stage → BitVec 3
  | .detectFeatureSupport => 0
  | .featureRequest => 1
  | .zoneRequestEnabled => 2
  | .findNextControllerTx => 3
  | .findNextControllerRx => 4
  | .zoneRequestActive => 5
  | .complete => 6

/-- 30_encoding.md R73: the role bit, 0 `IndoorUnit`, 1 `Controller`. -/
def Role.bit : Role → BitVec 1
  | .indoorUnit => 0
  | .controller => 1

/-- 30_encoding.md R73, read from a frame. -/
def Role.ofBit (b : Bool) : Role := if b then .controller else .indoorUnit

/-- 30_encoding.md R74: "The payload layout is chosen by the kind, a function of the variant, the type
code and the source role". Codes 7, and 5 and 6 in the Legacy variant, are `Unknown` (R75). -/
def kindOf (v : Variant) (code : BitVec 3) (role : Role) : Kind :=
  match code.toNat with
  | 0 => match role with
    | .indoorUnit => .configIU
    | .controller => .configC
  | 1 => .error
  | 2 => .features
  | 3 => .function
  | 4 => .status
  | 5 => match v with
    | .legacy => .unknown
    | .zoned => match role with
      | .indoorUnit => .zoneConfigIU
      | .controller => .zoneConfigC
  | 6 => match v with
    | .legacy => .unknown
    | .zoned => match role with
      | .indoorUnit => .zoneFunctionIU
      | .controller => .zoneFunctionC
  | _ => .unknown

/-- The 8 fields of `ConfigCommon` (30_encoding.md R76). -/
def commonFields : List FieldName :=
  [.enabled, .economy, .setpoint, .testRun, .mode, .fanSpeed, .swingVertical, .swingHorizontal]

/-- The 11 fields of `IUSub` (30_encoding.md R76). -/
def iuFields : List FieldName :=
  [.standbyMode, .errorFlag, .lockAll, .lockEnabled, .lockMode, .lockSetpoint, .lockFilterReset,
   .filterTimerExpired, .seenPrimaryController, .seenSecondaryController, .unknownFlags]

/-- The 7 fields of `CtlSub` (30_encoding.md R76). -/
def ctlFields : List FieldName :=
  [.write, .temperature, .useControllerSensor, .advanceVerticalLouver, .advanceHorizontalLouver,
   .resetFilterTimer, .maintenance]

/-- The 16 fields of `Features` that both variants have (30_encoding.md R76). -/
def featureFields : List FieldName :=
  [.modeAuto, .modeHeat, .modeFan, .modeDry, .modeCool, .fanQuiet, .fanLow, .fanMedium, .fanHigh,
   .fanAuto, .filterTimer, .sensorSwitching, .featMaintenance, .economyMode, .horizontalLouvers,
   .verticalLouvers]

/-- The 5 fields of both ZoneConfig kinds (30_encoding.md R76). -/
def zoneFieldNames : List FieldName :=
  [.activeZones, .groupMapLo, .groupMapHi, .dayGroupActive, .nightGroupActive]

/-- 30_encoding.md R76: the field names of each kind. A zone kind exists in the Zoned variant only. -/
def fieldsOf (v : Variant) : Kind → List FieldName
  | .configIU => commonFields ++ iuFields
  | .configC => commonFields ++ ctlFields
  | .error => [.code]
  | .features => match v with
    | .legacy => featureFields
    | .zoned => featureFields ++ [.zones]
  | .function => [.id, .value, .unit]
  | .status => []
  | .zoneConfigIU => match v with
    | .legacy => []
    | .zoned => zoneFieldNames
  | .zoneConfigC => match v with
    | .legacy => []
    | .zoned => zoneFieldNames ++ [.write]
  | .zoneFunctionIU => match v with
    | .legacy => []
    | .zoned => [.enabledZones, .commonZone]
  | .zoneFunctionC => []
  | .unknown => []

/-- The wire width of a field: 10_state.md R24; `Temperature` is 7 bits in the Zoned variant and 6 in
the Legacy variant, the group map bytes are 8 (30_encoding.md R77 item 3). -/
def fieldWidth (v : Variant) : FieldName → Nat
  | .setpoint => 7
  | .mode => 3
  | .fanSpeed => 3
  | .unknownFlags => 2
  | .temperature => match v with
    | .legacy => 6
    | .zoned => 7
  | .code => 8
  | .id => 8
  | .value => 8
  | .unit => 4
  | .activeZones => 8
  | .groupMapLo => 8
  | .groupMapHi => 8
  | .enabledZones => 8
  | _ => 1

/-- The rows of one kind. `Status`, `ZoneFunction.C` and `Unknown` have no field (30_encoding.md R87,
R89, R90). -/
def VariantLayout.rows (l : VariantLayout) : Kind → List (FieldName × Descriptor)
  | .configIU => l.configIU
  | .configC => l.configC
  | .error => l.error
  | .features => l.features
  | .function => l.function
  | .zoneConfigIU => l.zoneConfigIU
  | .zoneConfigC => l.zoneConfigC
  | .zoneFunctionIU => l.zoneFunctionIU
  | .status => []
  | .zoneFunctionC => []
  | .unknown => []

/-- The rows of one (variant, kind). -/
def Layout.rows (l : Layout) (v : Variant) (k : Kind) : List (FieldName × Descriptor) :=
  match v with
  | .legacy => l.legacy.rows k
  | .zoned => l.zoned.rows k

/-- The descriptor of a field in a list of rows. A field with no row gets a descriptor that covers
no bit; a well-formed layout has a row for every field of the kind (30_encoding.md R76, R77). -/
def findDescriptor (f : FieldName) : List (FieldName × Descriptor) → Descriptor
  | [] => ⟨8, 0, 0⟩
  | (g, d) :: rest => if g = f then d else findDescriptor f rest

/-- 30_encoding.md R76: `CFG.LAYOUT` as a total function of (variant, kind, field). -/
def Layout.get (l : Layout) (v : Variant) (k : Kind) (f : FieldName) : Descriptor :=
  findDescriptor f (l.rows v k)

/-- The mask of an entry in a list of fixup rows, all zero where no row names it. -/
def findFixup (v : Variant) (code : BitVec 3) (role : Role) : List FixupRow → Frame
  | [] => Frame.zero
  | r :: rest =>
    if r.variant = v ∧ r.code = code ∧ r.role = role then r.mask else findFixup v code role rest

/-- 30_encoding.md R92: `CFG.FIXUP` as a total function of (variant, type code, role). -/
def Cfg.fixupOf (c : Cfg) (code : BitVec 3) (role : Role) : Frame :=
  findFixup c.variant code role c.fixup

/-- 30_encoding.md R80. -/
def layoutRefCommon : List (FieldName × Descriptor) :=
  [(.enabled, ⟨3, 0x01, 0⟩), (.mode, ⟨3, 0x0E, 1⟩), (.fanSpeed, ⟨3, 0x70, 4⟩),
   (.setpoint, ⟨4, 0x7F, 0⟩), (.economy, ⟨4, 0x80, 7⟩), (.testRun, ⟨5, 0x01, 0⟩),
   (.swingVertical, ⟨5, 0x04, 2⟩), (.swingHorizontal, ⟨5, 0x10, 4⟩)]

/-- 30_encoding.md R81. -/
def layoutRefIU : List (FieldName × Descriptor) :=
  [(.unknownFlags, ⟨2, 0x03, 0⟩), (.errorFlag, ⟨3, 0x80, 7⟩), (.standbyMode, ⟨5, 0x02, 1⟩),
   (.filterTimerExpired, ⟨5, 0x08, 3⟩), (.lockAll, ⟨6, 0x01, 0⟩), (.lockEnabled, ⟨6, 0x02, 1⟩),
   (.lockMode, ⟨6, 0x04, 2⟩), (.lockSetpoint, ⟨6, 0x08, 3⟩), (.lockFilterReset, ⟨6, 0x10, 4⟩),
   (.seenPrimaryController, ⟨7, 0x01, 0⟩), (.seenSecondaryController, ⟨7, 0x02, 1⟩)]

/-- 30_encoding.md R82; `Temperature` differs between the variants. -/
def layoutRefCtl (v : Variant) : List (FieldName × Descriptor) :=
  [(.write, ⟨2, 0x08, 3⟩), (.advanceVerticalLouver, ⟨5, 0x02, 1⟩),
   (.advanceHorizontalLouver, ⟨5, 0x08, 3⟩), (.resetFilterTimer, ⟨5, 0x40, 6⟩),
   (.maintenance, ⟨5, 0x80, 7⟩),
   (.temperature, match v with
     | .zoned => ⟨6, 0x7F, 0⟩
     | .legacy => ⟨6, 0x7E, 1⟩),
   (.useControllerSensor, ⟨6, 0x80, 7⟩)]

/-- 30_encoding.md R85, the rows of both variants. -/
def layoutRefFeatures : List (FieldName × Descriptor) :=
  [(.modeAuto, ⟨3, 0x01, 0⟩), (.modeHeat, ⟨3, 0x02, 1⟩), (.modeFan, ⟨3, 0x04, 2⟩),
   (.modeDry, ⟨3, 0x08, 3⟩), (.modeCool, ⟨3, 0x10, 4⟩), (.fanQuiet, ⟨4, 0x01, 0⟩),
   (.fanLow, ⟨4, 0x02, 1⟩), (.fanMedium, ⟨4, 0x04, 2⟩), (.fanHigh, ⟨4, 0x08, 3⟩),
   (.fanAuto, ⟨4, 0x10, 4⟩), (.filterTimer, ⟨5, 0x01, 0⟩), (.sensorSwitching, ⟨5, 0x02, 1⟩),
   (.featMaintenance, ⟨5, 0x04, 2⟩), (.economyMode, ⟨5, 0x08, 3⟩),
   (.horizontalLouvers, ⟨5, 0x10, 4⟩), (.verticalLouvers, ⟨5, 0x20, 5⟩)]

/-- 30_encoding.md R88, the rows of both ZoneConfig kinds. -/
def layoutRefZone : List (FieldName × Descriptor) :=
  [(.activeZones, ⟨3, 0xFF, 0⟩), (.groupMapLo, ⟨4, 0xFF, 0⟩), (.groupMapHi, ⟨5, 0xFF, 0⟩),
   (.dayGroupActive, ⟨6, 0x01, 0⟩), (.nightGroupActive, ⟨6, 0x02, 1⟩)]

/-- 30_encoding.md R80 to R90: `LAYOUT_REF` of one variant. -/
def layoutRefOf (v : Variant) : VariantLayout where
  configIU := layoutRefCommon ++ layoutRefIU
  configC := layoutRefCommon ++ layoutRefCtl v
  error := [(.code, ⟨4, 0xFF, 0⟩)]
  features := match v with
    | .legacy => layoutRefFeatures
    | .zoned => layoutRefFeatures ++ [(.zones, ⟨5, 0x40, 6⟩)]
  function := [(.id, ⟨3, 0xFF, 0⟩), (.value, ⟨4, 0xFF, 0⟩), (.unit, ⟨5, 0x0F, 0⟩)]
  zoneConfigIU := match v with
    | .legacy => []
    | .zoned => layoutRefZone
  zoneConfigC := match v with
    | .legacy => []
    | .zoned => (.write, ⟨2, 0x08, 3⟩) :: layoutRefZone
  zoneFunctionIU := match v with
    | .legacy => []
    | .zoned => [(.enabledZones, ⟨3, 0xFF, 0⟩), (.commonZone, ⟨4, 0x01, 0⟩)]

/-- 30_encoding.md R79: `LAYOUT_REF`, the default of `CFG.LAYOUT`. -/
def layoutRef : Layout := ⟨layoutRefOf .legacy, layoutRefOf .zoned⟩

/-- 30_encoding.md R93: `FIXUP_REF`, the default of `CFG.FIXUP`; "codes 5 and 6 are all zero in the
Legacy variant". -/
def fixupRef : List FixupRow :=
  [⟨.legacy, 0, .controller, { b7 := 0x20 }⟩, ⟨.legacy, 1, .controller, { b5 := 0x01 }⟩,
   ⟨.legacy, 2, .controller, { b6 := 0x40 }⟩, ⟨.legacy, 3, .controller, { b7 := 0x01 }⟩,
   ⟨.zoned, 0, .controller, { b7 := 0x20 }⟩, ⟨.zoned, 1, .controller, { b5 := 0x01 }⟩,
   ⟨.zoned, 2, .controller, { b6 := 0x40 }⟩, ⟨.zoned, 3, .controller, { b7 := 0x01 }⟩,
   ⟨.zoned, 5, .controller, { b7 := 0x10 }⟩, ⟨.zoned, 6, .controller, { b7 := 0x08 }⟩]

/-- 42_fsm_rx.md R168: the default of `CFG.DEFAULT_FEATURES`, five modes and five fan speeds. -/
def featuresRef : Features where
  modeAuto := true
  modeHeat := true
  modeFan := true
  modeDry := true
  modeCool := true
  fanQuiet := true
  fanLow := true
  fanMedium := true
  fanHigh := true
  fanAuto := true

/-- 43_host_commands.md R212: the default `CFG.LOCK_MAP`. -/
def lockMapRef : List (LockCmd × LockFlag) :=
  [(.setEnabled, .lockAll), (.setEnabled, .lockEnabled), (.setMode, .lockAll),
   (.setMode, .lockMode), (.setSetpoint, .lockAll), (.setSetpoint, .lockSetpoint),
   (.resetFilter, .lockAll), (.resetFilter, .lockFilterReset), (.setEconomy, .lockAll),
   (.setTestRun, .lockAll), (.setFanSpeed, .lockAll), (.setVerticalSwing, .lockAll),
   (.setHorizontalSwing, .lockAll), (.advanceVerticalLouver, .lockAll),
   (.advanceHorizontalLouver, .lockAll), (.useSensor, .lockAll), (.maintenance, .lockAll),
   (.setZone, .lockAll), (.setZoneGroupDay, .lockAll), (.setZoneGroupNight, .lockAll)]

/-- A configuration with every default of 00_scope.md R6 and the two straps given, which have no
default: "none: a strap, the model takes it as an argument". -/
def cfgRef (variant : Variant) (ctrlAddr : Addr) : Cfg where
  ctrlAddr := ctrlAddr
  variant := variant
  layout := layoutRef
  fixup := fixupRef
  iuTokenAddr := 1
  defaultFeatures := featuresRef
  funcQueueDepth := 4
  selfClearing := [.resetFilterTimer, .maintenance]
  lockMap := lockMapRef

end Sys2Proof
end

