-- ==== Sys2Proof/Machine/Codec.lean ====
section
/-! DEFINITION. The frame codec: the primitives of 40_codec_primitives.md R110 to R116 and DECODE and
ENCODE of 41_codec_frames.md R130 to R143. Pure functions of their operands and `CFG`: the codec is
"stateless pure functions" (10_state.md R20). -/

namespace Sys2Proof

/-- 10_state.md R21, 00_scope.md R9: read byte lane `i`. No address above 7 is meaningful
(20_memory.md R50); such a lane reads as 0. -/
def Frame.lane (f : Frame) : Nat → Byte
  | 0 => f.b0
  | 1 => f.b1
  | 2 => f.b2
  | 3 => f.b3
  | 4 => f.b4
  | 5 => f.b5
  | 6 => f.b6
  | 7 => f.b7
  | _ => 0

/-- 00_scope.md R9: write byte lane `i`; above 7 there is no lane and nothing is written. -/
def Frame.setLane (f : Frame) (i : Nat) (v : Byte) : Frame :=
  match i with
  | 0 => { f with b0 := v }
  | 1 => { f with b1 := v }
  | 2 => { f with b2 := v }
  | 3 => { f with b3 := v }
  | 4 => { f with b4 := v }
  | 5 => { f with b5 := v }
  | 6 => { f with b6 := v }
  | 7 => { f with b7 := v }
  | _ => f

/-- Bytewise OR of two frames. -/
def Frame.or (f g : Frame) : Frame :=
  ⟨f.b0 ||| g.b0, f.b1 ||| g.b1, f.b2 ||| g.b2, f.b3 ||| g.b3,
   f.b4 ||| g.b4, f.b5 ||| g.b5, f.b6 ||| g.b6, f.b7 ||| g.b7⟩

/-- Bytewise AND of two frames. -/
def Frame.and (f g : Frame) : Frame :=
  ⟨f.b0 &&& g.b0, f.b1 &&& g.b1, f.b2 &&& g.b2, f.b3 &&& g.b3,
   f.b4 &&& g.b4, f.b5 &&& g.b5, f.b6 &&& g.b6, f.b7 &&& g.b7⟩

/-- 40_codec_primitives.md R110: `INVERT(f)`, every byte the one's complement. -/
def invertFrame (f : Frame) : Frame :=
  ⟨~~~f.b0, ~~~f.b1, ~~~f.b2, ~~~f.b3, ~~~f.b4, ~~~f.b5, ~~~f.b6, ~~~f.b7⟩

/-- 00_scope.md R8: `B[i] = data[8i+7 : 8i]`, the lanes of a 64-bit port vector. -/
def Frame.ofPort (d : BitVec 64) : Frame :=
  ⟨d.extractLsb' 0 8, d.extractLsb' 8 8, d.extractLsb' 16 8, d.extractLsb' 24 8,
   d.extractLsb' 32 8, d.extractLsb' 40 8, d.extractLsb' 48 8, d.extractLsb' 56 8⟩

/-- 00_scope.md R8: the 64-bit port vector of a frame. -/
def Frame.toPort (f : Frame) : BitVec 64 :=
  f.b7 ++ f.b6 ++ f.b5 ++ f.b4 ++ f.b3 ++ f.b2 ++ f.b1 ++ f.b0

/-- 40_codec_primitives.md R111: `getField(d, BUF) = (BUF[d.byte] & d.mask) >> d.shift`. -/
def getFieldOf (d : Descriptor) (buf : Frame) : Byte :=
  (buf.lane d.byte &&& d.mask) >>> d.shift

/-- 40_codec_primitives.md R112: `BUF[d.byte] <- BUF[d.byte] | ((v << d.shift) & d.mask)`. It ORs and
drops the bits of `v` beyond the mask. -/
def setFieldOf (d : Descriptor) (buf : Frame) (v : BitVec 16) : Frame :=
  buf.setLane d.byte (buf.lane d.byte ||| ((v <<< d.shift).setWidth 8 &&& d.mask))

/-- 40_codec_primitives.md R113: `EXTRACT(b, p)` gathers the bits of one parity. -/
def extractBits (b : Byte) : Parity → BitVec 4
  | .even => BitVec.ofBool (b.getLsbD 6) ++ BitVec.ofBool (b.getLsbD 4) ++
      BitVec.ofBool (b.getLsbD 2) ++ BitVec.ofBool (b.getLsbD 0)
  | .odd => BitVec.ofBool (b.getLsbD 7) ++ BitVec.ofBool (b.getLsbD 5) ++
      BitVec.ofBool (b.getLsbD 3) ++ BitVec.ofBool (b.getLsbD 1)

/-- 40_codec_primitives.md R114: `INTERLEAVE(v, p)` scatters the low 4 bits of `v` to one parity. -/
def interleaveBits (v : Byte) : Parity → Byte
  | .even => 0#1 ++ BitVec.ofBool (v.getLsbD 3) ++ 0#1 ++ BitVec.ofBool (v.getLsbD 2) ++
      0#1 ++ BitVec.ofBool (v.getLsbD 1) ++ 0#1 ++ BitVec.ofBool (v.getLsbD 0)
  | .odd => BitVec.ofBool (v.getLsbD 3) ++ 0#1 ++ BitVec.ofBool (v.getLsbD 2) ++ 0#1 ++
      BitVec.ofBool (v.getLsbD 1) ++ 0#1 ++ BitVec.ofBool (v.getLsbD 0) ++ 0#1

/-- 40_codec_primitives.md R115: `TEMP_PACK_Z(t) = (zext_17(t) + 64) >> 7`. -/
def tempPackZoned (t : Temp) : BitVec 17 := (t.setWidth 17 + 64) >>> 7

/-- 40_codec_primitives.md R115: `TEMP_UNPACK_Z(w) = zext_16(w) << 7`. -/
def tempUnpackZoned (w : BitVec 7) : Temp := w.setWidth 16 <<< 7

/-- 40_codec_primitives.md R116: `TEMP_PACK_L(t) = (zext_17(t) + 128) >> 8`. -/
def tempPackLegacy (t : Temp) : BitVec 17 := (t.setWidth 17 + 128) >>> 8

/-- 40_codec_primitives.md R116: `TEMP_UNPACK_L(w) = zext_16(w) << 8`. -/
def tempUnpackLegacy (w : BitVec 6) : Temp := w.setWidth 16 <<< 8

/-- 41_codec_frames.md R133: the value `Temperature` is stored from, by variant. -/
def tempPack (v : Variant) (t : Temp) : BitVec 17 :=
  match v with
  | .zoned => tempPackZoned t
  | .legacy => tempPackLegacy t

/-- 41_codec_frames.md R133: `Temperature` from the field's bits, by variant. -/
def tempUnpack (v : Variant) (w : Byte) : Temp :=
  match v with
  | .zoned => tempUnpackZoned (w.setWidth 7)
  | .legacy => tempUnpackLegacy (w.setWidth 6)

/-- 41_codec_frames.md R140, encode: one byte of the zone group map from 4 zones of each group. -/
def groupByte (day night : Byte) : Byte :=
  interleaveBits day .even ||| interleaveBits night .odd

/-- 41_codec_frames.md R140: `GroupMapLo`, zones 1 to 4. -/
def groupMapLo (z : ZoneFields) : Byte :=
  groupByte ((z.zoneGroupDay.extractLsb' 0 4).setWidth 8)
    ((z.zoneGroupNight.extractLsb' 0 4).setWidth 8)

/-- 41_codec_frames.md R140: `GroupMapHi`, zones 5 to 8. -/
def groupMapHi (z : ZoneFields) : Byte :=
  groupByte ((z.zoneGroupDay.extractLsb' 4 4).setWidth 8)
    ((z.zoneGroupNight.extractLsb' 4 4).setWidth 8)

/-- 41_codec_frames.md R140, decode: the mask of one group from the two bytes. -/
def groupMask (lo hi : Byte) (p : Parity) : ZoneMask :=
  (extractBits lo p).setWidth 8 ||| ((extractBits hi p).setWidth 8 <<< 4)

/-! The header descriptors, fixed by the document (30_encoding.md R71). -/

def hdrSourceType : Descriptor := ⟨0, 0x20, 5⟩
def hdrSourceAddress : Descriptor := ⟨0, 0x0F, 0⟩
def hdrTokenType : Descriptor := ⟨1, 0x20, 5⟩
def hdrTokenAddress : Descriptor := ⟨1, 0x0F, 0⟩
def hdrType : Descriptor := ⟨2, 0x70, 4⟩

/-- The five header descriptors. -/
def hdrDescriptors : List Descriptor :=
  [hdrSourceType, hdrSourceAddress, hdrTokenType, hdrTokenAddress, hdrType]

/-- A 1-bit value as the operand of a field store. -/
def flagValue (b : Bool) : BitVec 16 := (BitVec.ofBool b).setWidth 16

/-- The value each field of a packet's body is stored from (41_codec_frames.md R132 to R142,
30_encoding.md R94). A field the body does not have is stored as 0. -/
def fieldValue (v : Variant) (b : Body) (f : FieldName) : BitVec 16 :=
  match b with
  | .config c => match f with
    | .enabled => flagValue c.common.enabled
    | .economy => flagValue c.common.economy
    | .setpoint => c.common.setpoint.setWidth 16
    | .testRun => flagValue c.common.testRun
    | .mode => c.common.mode.setWidth 16
    | .fanSpeed => c.common.fanSpeed.setWidth 16
    | .swingVertical => flagValue c.common.swingVertical
    | .swingHorizontal => flagValue c.common.swingHorizontal
    | .standbyMode => flagValue c.iu.standbyMode
    | .errorFlag => flagValue c.iu.error
    | .lockAll => flagValue c.iu.lockAll
    | .lockEnabled => flagValue c.iu.lockEnabled
    | .lockMode => flagValue c.iu.lockMode
    | .lockSetpoint => flagValue c.iu.lockSetpoint
    | .lockFilterReset => flagValue c.iu.lockFilterReset
    | .filterTimerExpired => flagValue c.iu.filterTimerExpired
    | .seenPrimaryController => flagValue c.iu.seenPrimaryController
    | .seenSecondaryController => flagValue c.iu.seenSecondaryController
    | .unknownFlags => c.iu.unknownFlags.setWidth 16
    | .write => flagValue c.ctl.write
    | .temperature => (tempPack v c.ctl.temperature).setWidth 16
    | .useControllerSensor => flagValue c.ctl.useControllerSensor
    | .advanceVerticalLouver => flagValue c.ctl.advanceVerticalLouver
    | .advanceHorizontalLouver => flagValue c.ctl.advanceHorizontalLouver
    | .resetFilterTimer => flagValue c.ctl.resetFilterTimer
    | .maintenance => flagValue c.ctl.maintenance
    | _ => 0
  | .error code => match f with
    | .code => code.setWidth 16
    | _ => 0
  | .features t => match f with
    | .modeAuto => flagValue t.modeAuto
    | .modeHeat => flagValue t.modeHeat
    | .modeFan => flagValue t.modeFan
    | .modeDry => flagValue t.modeDry
    | .modeCool => flagValue t.modeCool
    | .fanQuiet => flagValue t.fanQuiet
    | .fanLow => flagValue t.fanLow
    | .fanMedium => flagValue t.fanMedium
    | .fanHigh => flagValue t.fanHigh
    | .fanAuto => flagValue t.fanAuto
    | .filterTimer => flagValue t.filterTimer
    | .sensorSwitching => flagValue t.sensorSwitching
    | .featMaintenance => flagValue t.maintenance
    | .economyMode => flagValue t.economyMode
    | .horizontalLouvers => flagValue t.horizontalLouvers
    | .verticalLouvers => flagValue t.verticalLouvers
    | .zones => flagValue t.zones
    | _ => 0
  | .function q => match f with
    | .id => q.id.setWidth 16
    | .value => q.value.setWidth 16
    | .unit => q.unit.setWidth 16
    | _ => 0
  | .status => 0
  | .zoneConfig z => match f with
    | .activeZones => z.zones.activeZones.setWidth 16
    | .groupMapLo => (groupMapLo z.zones).setWidth 16
    | .groupMapHi => (groupMapHi z.zones).setWidth 16
    | .dayGroupActive => flagValue z.zones.dayGroupActive
    | .nightGroupActive => flagValue z.zones.nightGroupActive
    | .write => flagValue z.write
    | _ => 0
  | .zoneFunction z => match f with
    | .enabledZones => z.enabledZones.setWidth 16
    | .commonZone => flagValue z.commonZone
    | _ => 0
  | .none => 0

/-- `encode_body[k](p.body, BUF)`: for each field of the kind, `setField` (41_codec_frames.md R131 and
the head of its section 2). -/
def encodeBody (c : Cfg) (k : Kind) (b : Body) (buf : Frame) : Frame :=
  (fieldsOf c.variant k).foldl
    (fun acc f => setFieldOf (c.layout.get c.variant k f) acc (fieldValue c.variant b f)) buf

/-- The four address fields of the header (41_codec_frames.md R131). -/
def encodeAddresses (p : Packet) (buf : Frame) : Frame :=
  setFieldOf hdrTokenAddress
    (setFieldOf hdrTokenType
      (setFieldOf hdrSourceAddress
        (setFieldOf hdrSourceType buf (p.src.role.bit.setWidth 16))
        (p.src.addr.setWidth 16))
      (p.tok.role.bit.setWidth 16))
    (p.tok.addr.setWidth 16)

/-- The kind of a packet (30_encoding.md R74). -/
def packetKind (c : Cfg) (p : Packet) : Kind := kindOf c.variant p.typeCode p.src.role

/-- 41_codec_frames.md R131: `ENCODE_LOGICAL(p)`, in the order of its pseudocode. -/
def encodeLogicalOf (c : Cfg) (p : Packet) : Frame :=
  let b1 := encodeAddresses p Frame.zero
  let b2 := b1.setLane 1 (b1.lane 1 ||| 0x80)
  let b3 := setFieldOf hdrType b2 (p.typeCode.setWidth 16)
  let b4 := encodeBody c (packetKind c p) p.body b3
  b4.or (c.fixupOf p.typeCode p.src.role)

/-- 41_codec_frames.md R131: `ENCODE(p) = INVERT(ENCODE_LOGICAL(p))`. -/
def encodeOf (c : Cfg) (p : Packet) : Frame := invertFrame (encodeLogicalOf c p)

/-- A 1-bit field read from a buffer (30_encoding.md R94, form "flag"). -/
def getFlag (c : Cfg) (k : Kind) (buf : Frame) (f : FieldName) : Bool :=
  (getFieldOf (c.layout.get c.variant k f) buf).getLsbD 0

/-- A field's bits read from a buffer (30_encoding.md R94, form "plain number"). -/
def getBits (c : Cfg) (k : Kind) (buf : Frame) (f : FieldName) : Byte :=
  getFieldOf (c.layout.get c.variant k f) buf

/-- The 8 fields of `ConfigCommon` (41_codec_frames.md R132, R133). -/
def decodeCommon (c : Cfg) (k : Kind) (buf : Frame) : ConfigCommon where
  enabled := getFlag c k buf .enabled
  economy := getFlag c k buf .economy
  setpoint := (getBits c k buf .setpoint).setWidth 7
  testRun := getFlag c k buf .testRun
  mode := (getBits c k buf .mode).setWidth 3
  fanSpeed := (getBits c k buf .fanSpeed).setWidth 3
  swingVertical := getFlag c k buf .swingVertical
  swingHorizontal := getFlag c k buf .swingHorizontal

/-- The 11 fields of `IUSub` (41_codec_frames.md R132). -/
def decodeIU (c : Cfg) (buf : Frame) : IUSub where
  standbyMode := getFlag c .configIU buf .standbyMode
  error := getFlag c .configIU buf .errorFlag
  lockAll := getFlag c .configIU buf .lockAll
  lockEnabled := getFlag c .configIU buf .lockEnabled
  lockMode := getFlag c .configIU buf .lockMode
  lockSetpoint := getFlag c .configIU buf .lockSetpoint
  lockFilterReset := getFlag c .configIU buf .lockFilterReset
  filterTimerExpired := getFlag c .configIU buf .filterTimerExpired
  seenPrimaryController := getFlag c .configIU buf .seenPrimaryController
  seenSecondaryController := getFlag c .configIU buf .seenSecondaryController
  unknownFlags := (getBits c .configIU buf .unknownFlags).setWidth 2

/-- The 7 fields of `CtlSub` (41_codec_frames.md R133). -/
def decodeCtl (c : Cfg) (buf : Frame) : CtlSub where
  write := getFlag c .configC buf .write
  temperature := tempUnpack c.variant (getBits c .configC buf .temperature)
  useControllerSensor := getFlag c .configC buf .useControllerSensor
  advanceVerticalLouver := getFlag c .configC buf .advanceVerticalLouver
  advanceHorizontalLouver := getFlag c .configC buf .advanceHorizontalLouver
  resetFilterTimer := getFlag c .configC buf .resetFilterTimer
  maintenance := getFlag c .configC buf .maintenance

/-- 41_codec_frames.md R134. -/
def decodeCode (c : Cfg) (buf : Frame) : Byte := getBits c .error buf .code

/-- 41_codec_frames.md R135: "in the Legacy variant `Zones` has no descriptor: it decodes as 0". -/
def decodeFeatures (c : Cfg) (buf : Frame) : Features where
  modeAuto := getFlag c .features buf .modeAuto
  modeHeat := getFlag c .features buf .modeHeat
  modeFan := getFlag c .features buf .modeFan
  modeDry := getFlag c .features buf .modeDry
  modeCool := getFlag c .features buf .modeCool
  fanQuiet := getFlag c .features buf .fanQuiet
  fanLow := getFlag c .features buf .fanLow
  fanMedium := getFlag c .features buf .fanMedium
  fanHigh := getFlag c .features buf .fanHigh
  fanAuto := getFlag c .features buf .fanAuto
  filterTimer := getFlag c .features buf .filterTimer
  sensorSwitching := getFlag c .features buf .sensorSwitching
  maintenance := getFlag c .features buf .featMaintenance
  economyMode := getFlag c .features buf .economyMode
  horizontalLouvers := getFlag c .features buf .horizontalLouvers
  verticalLouvers := getFlag c .features buf .verticalLouvers
  zones := match c.variant with
    | .legacy => false
    | .zoned => getFlag c .features buf .zones

/-- 41_codec_frames.md R136. -/
def decodeFunction (c : Cfg) (buf : Frame) : FunctionBody where
  id := getBits c .function buf .id
  value := getBits c .function buf .value
  unit := (getBits c .function buf .unit).setWidth 4

/-- 41_codec_frames.md R138, R139, R140: the five zone fields of either ZoneConfig kind. -/
def decodeZones (c : Cfg) (k : Kind) (buf : Frame) : ZoneFields where
  activeZones := getBits c k buf .activeZones
  zoneGroupDay := groupMask (getBits c k buf .groupMapLo) (getBits c k buf .groupMapHi) .even
  zoneGroupNight := groupMask (getBits c k buf .groupMapLo) (getBits c k buf .groupMapHi) .odd
  dayGroupActive := getFlag c k buf .dayGroupActive
  nightGroupActive := getFlag c k buf .nightGroupActive

/-- 41_codec_frames.md R141. -/
def decodeZoneFunction (c : Cfg) (buf : Frame) : ZoneFunctionBody where
  enabledZones := getBits c .zoneFunctionIU buf .enabledZones
  commonZone := getFlag c .zoneFunctionIU buf .commonZone

/-- `decode_body[k](BUF)` (41_codec_frames.md R132 to R143). The sub-record of the other role and a
`Write` the kind does not have decode as 0. -/
def decodeBody (c : Cfg) (k : Kind) (buf : Frame) : Body :=
  match k with
  | .configIU => .config { common := decodeCommon c .configIU buf, iu := decodeIU c buf }
  | .configC => .config { common := decodeCommon c .configC buf, ctl := decodeCtl c buf }
  | .error => .error (decodeCode c buf)
  | .features => .features (decodeFeatures c buf)
  | .function => .function (decodeFunction c buf)
  | .status => .status
  | .zoneConfigIU => .zoneConfig { zones := decodeZones c .zoneConfigIU buf }
  | .zoneConfigC =>
    .zoneConfig { zones := decodeZones c .zoneConfigC buf, write := getFlag c .zoneConfigC buf .write }
  | .zoneFunctionIU => .zoneFunction (decodeZoneFunction c buf)
  | .zoneFunctionC => .zoneFunction {}
  | .unknown => .none

/-- A header address (41_codec_frames.md R130). -/
def decodeAddress (typ addr : Descriptor) (buf : Frame) : Address where
  role := Role.ofBit ((getFieldOf typ buf).getLsbD 0)
  addr := getFieldOf addr buf

/-- The type code of a logical frame (30_encoding.md R71). -/
def decodeType (buf : Frame) : BitVec 3 := (getFieldOf hdrType buf).setWidth 3

/-- The packet a logical frame holds: R130 after its inversion. -/
def decodeLogicalOf (c : Cfg) (buf : Frame) : Packet :=
  let src := decodeAddress hdrSourceType hdrSourceAddress buf
  let code := decodeType buf
  { src := src
    tok := decodeAddress hdrTokenType hdrTokenAddress buf
    typeCode := code
    body := decodeBody c (kindOf c.variant code src.role) buf }

/-- 41_codec_frames.md R130: `DECODE(w)`. Total: no field value is validated, the universal bit and
unassigned bits are not read. -/
def decodeOf (c : Cfg) (w : Frame) : Packet := decodeLogicalOf c (invertFrame w)

/-! What of a logical frame a packet determines: its header and its fields, without the universal
bit and the fixups. -/

/-- The header and payload fields of a packet in a zero buffer. -/
def frameFields (c : Cfg) (p : Packet) : Frame :=
  encodeBody c (packetKind c p) p.body
    (setFieldOf hdrType (encodeAddresses p Frame.zero) (p.typeCode.setWidth 16))

/-- The bits the header and the descriptors of a kind cover. -/
def coveredBits (c : Cfg) (k : Kind) : Frame :=
  (fieldsOf c.variant k).foldl
    (fun acc f =>
      let d := c.layout.get c.variant k f
      acc.setLane d.byte (acc.lane d.byte ||| d.mask))
    { b0 := 0x2F, b1 := 0x2F, b2 := 0x70 }

/-- The bits of a logical frame that no field of its kind covers (30_encoding.md R98). -/
def ignoredBits (c : Cfg) (k : Kind) (buf : Frame) : Frame := buf.and (invertFrame (coveredBits c k))

end Sys2Proof
end

