-- ==== Sys2Proof/Syntax.lean ====
section
/-! DEFINITION. `Instr`: one constructor for each row of spec/opcode_table.json.

A row of format frame64 stands for a received frame of that kind: the RX_FRAME transaction
(42_fsm_rx.md R160) on it. A row of format cmd32 stands for a host command. A row of format primitive
has no encoding (30_encoding.md R105) and stands for the codec primitive, the operation RX_FRAME, or
the pseudo-form. -/

namespace Sys2Proof

/-- The operands every received frame has, whatever its kind: the header fields that the kind does
not fix (30_encoding.md R71), the bit `last` of the RX port (42_fsm_rx.md R160), and the bits of the
logical frame that are in no header field and no descriptor of the kind, which only `RawRx` shows
(30_encoding.md R98, 93_implementation_defined.md U1, U2). -/
structure RxHead where
  srcAddr : Addr
  tokRole : Role
  tokAddr : Addr
  last : Bool
  ignored : Frame
deriving DecidableEq, Repr

/-- The instructions, in the order of spec/opcode_table.json. `o` is the override bit of a command
word (30_encoding.md R100). -/
inductive Instr where
  -- frame kinds, 41_codec_frames.md R132 to R143
  | configIU (h : RxHead) (common : ConfigCommon) (iu : IUSub)
  | configC (h : RxHead) (common : ConfigCommon) (ctl : CtlSub)
  | errorIU (h : RxHead) (code : Byte)
  | errorC (h : RxHead) (code : Byte)
  | featuresIU (h : RxHead) (f : Features)
  | featuresC (h : RxHead) (f : Features)
  | functionIU (h : RxHead) (b : FunctionBody)
  | functionC (h : RxHead) (b : FunctionBody)
  | statusIU (h : RxHead)
  | statusC (h : RxHead)
  | zoneConfigIU (h : RxHead) (z : ZoneFields)
  | zoneConfigC (h : RxHead) (z : ZoneFields) (write : Bool)
  | zoneFunctionIU (h : RxHead) (b : ZoneFunctionBody)
  | zoneFunctionC (h : RxHead)
  | unknown7 (h : RxHead) (role : Role)
  | unknown5Legacy (h : RxHead) (role : Role)
  | unknown6Legacy (h : RxHead) (role : Role)
  -- host commands, 43_host_commands.md R214 to R233
  | setEnabled (o : Bool) (v : Bool)
  | setEconomy (o : Bool) (v : Bool)
  | setTestRun (o : Bool) (v : Bool)
  | setSetpoint (o : Bool) (d : BitVec 8)
  | setMode (o : Bool) (m : BitVec 3)
  | setFanSpeed (o : Bool) (sp : BitVec 3)
  | setVerticalSwing (o : Bool) (v : Bool)
  | setHorizontalSwing (o : Bool) (v : Bool)
  | advanceVerticalLouver (o : Bool)
  | advanceHorizontalLouver (o : Bool)
  | useSensor (o : Bool) (v : Bool)
  | resetFilter (o : Bool)
  | maintenance (o : Bool)
  | setZone (o : Bool) (z : BitVec 4) (v : Bool)
  | setZoneGroupDay (o : Bool) (z : BitVec 4) (v : Bool)
  | setZoneGroupNight (o : Bool) (z : BitVec 4) (v : Bool)
  | setCurrentTemperature (o : Bool) (t : BitVec 16)
  | queueFunction (o : Bool) (b : FunctionBody)
  | reinit (o : Bool)
  -- undefined operation codes, 43_host_commands.md R234
  | undefinedOp19
  | undefinedOp20
  | undefinedOp21
  | undefinedOp22
  | undefinedOp23
  | undefinedOp24
  | undefinedOp25
  | undefinedOp26
  | undefinedOp27
  | undefinedOp28
  | undefinedOp29
  | undefinedOp30
  | undefinedOp31
  -- codec primitives, 40_codec_primitives.md R110 to R116, 41_codec_frames.md R130, R131
  | invert (f : Frame)
  | getField (d : Descriptor)
  | setField (d : Descriptor) (v : BitVec 16)
  | extract (b : Byte) (p : Parity)
  | interleave (v : Byte) (p : Parity)
  | tempPackZ (t : Temp)
  | tempUnpackZ (w : BitVec 7)
  | tempPackL (t : Temp)
  | tempUnpackL (w : BitVec 6)
  | decode (w : Frame)
  | encode (p : Packet)
  | encodeLogical (p : Packet)
  -- the operation on any received wire frame, 42_fsm_rx.md R160
  | rxFrame (w : Frame) (last : Bool)
  -- pseudo-forms, 30_encoding.md R104
  | featuresReq
  | zoneFunctionReq
  | zoneConfigReq
deriving DecidableEq, Repr

end Sys2Proof
end

