-- ==== Sys2Proof/Machine/Operands.lean ====
section
/-! DEFINITION. The operand forms: the packet a received-frame row stands for, the fields of a command
word (30_encoding.md R100, R101), and the arithmetic of the commands' operands
(40_codec_primitives.md R117, 43_host_commands.md R228 to R230). -/

namespace Sys2Proof

/-! Packet type codes, 30_encoding.md R72. -/

def typeConfig : BitVec 3 := 0
def typeError : BitVec 3 := 1
def typeFeatures : BitVec 3 := 2
def typeFunction : BitVec 3 := 3
def typeStatus : BitVec 3 := 4
def typeZoneConfig : BitVec 3 := 5
def typeZoneFunction : BitVec 3 := 6
def typeReserved : BitVec 3 := 7

/-- The packet of a received frame: its kind gives the source role and the type code, the row's
operands the rest (10_state.md R24). -/
def RxHead.packet (h : RxHead) (role : Role) (code : BitVec 3) (body : Body) : Packet where
  src := ⟨role, h.srcAddr.setWidth 8⟩
  tok := ⟨h.tokRole, h.tokAddr.setWidth 8⟩
  typeCode := code
  body := body

/-- The common operands and the packet of an instruction that is a received frame
(41_codec_frames.md R132 to R143). -/
def Instr.received : Instr → Option (RxHead × Packet)
  | .configIU h common iu =>
    some (h, h.packet .indoorUnit typeConfig (.config { common := common, iu := iu }))
  | .configC h common ctl =>
    some (h, h.packet .controller typeConfig (.config { common := common, ctl := ctl }))
  | .errorIU h code => some (h, h.packet .indoorUnit typeError (.error code))
  | .errorC h code => some (h, h.packet .controller typeError (.error code))
  | .featuresIU h f => some (h, h.packet .indoorUnit typeFeatures (.features f))
  | .featuresC h f => some (h, h.packet .controller typeFeatures (.features f))
  | .functionIU h b => some (h, h.packet .indoorUnit typeFunction (.function b))
  | .functionC h b => some (h, h.packet .controller typeFunction (.function b))
  | .statusIU h => some (h, h.packet .indoorUnit typeStatus .status)
  | .statusC h => some (h, h.packet .controller typeStatus .status)
  | .zoneConfigIU h z => some (h, h.packet .indoorUnit typeZoneConfig (.zoneConfig { zones := z }))
  | .zoneConfigC h z write =>
    some (h, h.packet .controller typeZoneConfig (.zoneConfig { zones := z, write := write }))
  | .zoneFunctionIU h b => some (h, h.packet .indoorUnit typeZoneFunction (.zoneFunction b))
  | .zoneFunctionC h => some (h, h.packet .controller typeZoneFunction (.zoneFunction {}))
  | .unknown7 h role => some (h, h.packet role typeReserved .none)
  | .unknown5Legacy h role => some (h, h.packet role typeZoneConfig .none)
  | .unknown6Legacy h role => some (h, h.packet role typeZoneFunction .none)
  | .setEnabled _ _ => none
  | .setEconomy _ _ => none
  | .setTestRun _ _ => none
  | .setSetpoint _ _ => none
  | .setMode _ _ => none
  | .setFanSpeed _ _ => none
  | .setVerticalSwing _ _ => none
  | .setHorizontalSwing _ _ => none
  | .advanceVerticalLouver _ => none
  | .advanceHorizontalLouver _ => none
  | .useSensor _ _ => none
  | .resetFilter _ => none
  | .maintenance _ => none
  | .setZone _ _ _ => none
  | .setZoneGroupDay _ _ _ => none
  | .setZoneGroupNight _ _ _ => none
  | .setCurrentTemperature _ _ => none
  | .queueFunction _ _ => none
  | .reinit _ => none
  | .undefinedOp19 => none
  | .undefinedOp20 => none
  | .undefinedOp21 => none
  | .undefinedOp22 => none
  | .undefinedOp23 => none
  | .undefinedOp24 => none
  | .undefinedOp25 => none
  | .undefinedOp26 => none
  | .undefinedOp27 => none
  | .undefinedOp28 => none
  | .undefinedOp29 => none
  | .undefinedOp30 => none
  | .undefinedOp31 => none
  | .invert _ => none
  | .getField _ => none
  | .setField _ _ => none
  | .extract _ _ => none
  | .interleave _ _ => none
  | .tempPackZ _ => none
  | .tempUnpackZ _ => none
  | .tempPackL _ => none
  | .tempUnpackL _ => none
  | .decode _ => none
  | .encode _ => none
  | .encodeLogical _ => none
  | .rxFrame _ _ => none
  | .featuresReq => none
  | .zoneFunctionReq => none
  | .zoneConfigReq => none

/-- The logical frame of a received-frame instruction: its header and fields, and the bits no field
covers. For a decoded instruction this is the frame as received (60_exceptions.md R262: "with every
bit as received"). -/
def rawOf (c : Cfg) (p : Packet) (ignored : Frame) : Frame := (frameFields c p).or ignored

/-! The command word, 30_encoding.md R100: bit 31 `override`, bits 28:24 `op`, bits 23:0 `arg`; bits
30:29 are ignored. -/

def cmdOverride (w : BitVec 32) : Bool := w.getLsbD 31
def cmdOp (w : BitVec 32) : BitVec 5 := w.extractLsb' 24 5

/-- `arg[0]`, the value of a flag command. -/
def argFlag (w : BitVec 32) : Bool := w.getLsbD 0

/-- `arg[2:0]`, a mode or fan speed code. -/
def argCode (w : BitVec 32) : BitVec 3 := w.extractLsb' 0 3

/-- `arg[7:0]`, the degrees of SET_SETPOINT. -/
def argDegrees (w : BitVec 32) : BitVec 8 := w.extractLsb' 0 8

/-- `arg[3:0]`, a zone number. -/
def argZone (w : BitVec 32) : BitVec 4 := w.extractLsb' 0 4

/-- `arg[8]`, the value of a zone command. -/
def argZoneValue (w : BitVec 32) : Bool := w.getLsbD 8

/-- `arg[15:0]`, the operand of SET_CURRENT_TEMPERATURE. -/
def argTemperature (w : BitVec 32) : BitVec 16 := w.extractLsb' 0 16

/-- `arg[7:0]` Id, `arg[15:8]` Value, `arg[19:16]` Unit, of QUEUE_FUNCTION. -/
def argFunction (w : BitVec 32) : FunctionBody where
  id := w.extractLsb' 0 8
  value := w.extractLsb' 8 8
  unit := w.extractLsb' 16 4

/-- A command word from its three parts (30_encoding.md R100), the ignored bits 0. -/
def cmdWord (o : Bool) (op : BitVec 5) (arg : BitVec 24) : BitVec 32 :=
  BitVec.ofBool o ++ 0#2 ++ op ++ arg

/-- The `arg` of a zone command: `arg[3:0]` the zone, `arg[8]` the value. -/
def zoneArg (z : BitVec 4) (v : Bool) : BitVec 24 := 0#15 ++ BitVec.ofBool v ++ 0#4 ++ z

/-- The `arg` of QUEUE_FUNCTION. -/
def functionArg (b : FunctionBody) : BitVec 24 := 0#4 ++ b.unit ++ b.value ++ b.id

/-! Arithmetic on operands. -/

/-- 43_host_commands.md R217, 40_codec_primitives.md R117 item 3: `16 <= d and d <= 30`, on the
unsigned 8-bit operand. -/
def setpointInRange (d : BitVec 8) : Bool := decide (16 ≤ d.toNat ∧ d.toNat ≤ 30)

/-- 40_codec_primitives.md R117 item 3: `1 <= z and z <= 8`. -/
def zoneInRange (z : BitVec 4) : Bool := decide (1 ≤ z.toNat ∧ z.toNat ≤ 8)

/-- The mask `1 << (z-1)` of zone `z` (40_codec_primitives.md R117 item 6). -/
def zoneBit (z : BitVec 4) : ZoneMask := 1#8 <<< (z.toNat - 1)

/-- 40_codec_primitives.md R117 item 6: setting zone `z` is `m | (1 << (z-1))`, clearing it is
`m & ~(1 << (z-1))`. -/
def updateZone (m : ZoneMask) (z : BitVec 4) (v : Bool) : ZoneMask :=
  if v then m ||| zoneBit z else m &&& ~~~(zoneBit z)

/-- Membership of zone `z` in a mask: bit `z-1` (10_state.md R23). -/
def zoneMember (m : ZoneMask) (z : BitVec 4) : Bool := m.getLsbD (z.toNat - 1)

/-- 43_host_commands.md R228: the operand is signed two's complement; below 0 gives 0, above
60 * 256 = 15360 gives 15360. -/
def clampTemperature (t : BitVec 16) : Temp :=
  if t.toInt < 0 then 0 else if 15360 < t.toInt then 15360 else t

/-- 40_codec_primitives.md R117 item 2: `CFG.CTRL_ADDR + 1`, "formed in at least 5 bits". -/
def neighbourAddr (a : Addr) : BitVec 8 := a.setWidth 8 + 1

end Sys2Proof
end

