-- ==== Sys2Proof/WellFormed.lean ====
section
/-! DEFINITION. Well-formedness: of the configuration (30_encoding.md R77, R92, 42_fsm_rx.md R168,
70_reset_and_hazards.md R291), of a packet (41_codec_frames.md R131, R145), and of an instruction's
operands. Each check is a Bool of its own. -/

namespace Sys2Proof

/-! A descriptor, 30_encoding.md R77 items 1 to 4. -/

/-- R77 item 1: `byte <= 7`. -/
def Descriptor.byteOk (d : Descriptor) : Bool := decide (d.byte ≤ 7)

/-- The mask of `n` bits from bit `s` up. -/
def bitRun (n s : Nat) : Byte := BitVec.ofNat 8 ((2 ^ n - 1) * 2 ^ s)

/-- R77 item 2: the mask is not 0, its 1 bits are contiguous and `shift` is the lowest of them. -/
def Descriptor.maskOk (d : Descriptor) : Bool :=
  [1, 2, 3, 4, 5, 6, 7, 8].any fun n => decide (n + d.shift ≤ 8) && d.mask == bitRun n d.shift

/-- How many bits of a byte are 1. -/
def popCount (b : Byte) : Nat :=
  ((List.range 8).filter fun i => b.getLsbD i).length

/-- R77 item 3: the number of 1 bits equals the field's width. -/
def Descriptor.widthOk (d : Descriptor) (n : Nat) : Bool := popCount d.mask == n

/-- R77 item 4: no descriptor touches byte 0, byte 1, or byte 2 mask `0x70`. -/
def Descriptor.headerFree (d : Descriptor) : Bool :=
  !(d.byte == 0) && !(d.byte == 1) && (!(d.byte == 2) || d.mask &&& 0x70 == 0)

/-- Two descriptors share no bit. -/
def Descriptor.disjoint (d e : Descriptor) : Bool :=
  !(d.byte == e.byte) || d.mask &&& e.mask == 0

/-- R77 item 5: no two of a list share a bit. -/
def pairwiseDisjoint : List Descriptor → Bool
  | [] => true
  | d :: ds => ds.all (fun e => d.disjoint e) && pairwiseDisjoint ds

/-- R76: the table is total, one row for each field name of the kind and no other. -/
def Layout.namesOk (l : Layout) (v : Variant) (k : Kind) : Bool :=
  (l.rows v k).length == (fieldsOf v k).length &&
    (fieldsOf v k).all fun f => (l.rows v k).any fun r => r.1 == f

/-- R77 for one (variant, kind). -/
def Layout.kindOk (l : Layout) (v : Variant) (k : Kind) : Bool :=
  l.namesOk v k &&
  ((fieldsOf v k).all fun f =>
    (l.get v k f).byteOk && (l.get v k f).maskOk &&
      (l.get v k f).widthOk (fieldWidth v f) && (l.get v k f).headerFree) &&
  pairwiseDisjoint ((fieldsOf v k).map (l.get v k))

/-- The kinds that can have fields. -/
def fieldKinds : List Kind :=
  [.configIU, .configC, .error, .features, .function, .zoneConfigIU, .zoneConfigC, .zoneFunctionIU]

/-- 30_encoding.md R77: the whole of `CFG.LAYOUT`. -/
def Layout.wellFormed (l : Layout) : Bool :=
  (fieldKinds.all fun k => l.kindOk .legacy k) && (fieldKinds.all fun k => l.kindOk .zoned k)

/-- 30_encoding.md R92: `F[0] = 0`, `F[1] & 0xAF = 0`, `F[2] & 0x70 = 0`. -/
def fixupHeaderFree (m : Frame) : Bool :=
  m.b0 == 0 && m.b1 &&& 0xAF == 0 && m.b2 &&& 0x70 == 0

/-- 30_encoding.md R92: the mask shares no bit with any descriptor of the kind. -/
def fixupFieldFree (l : Layout) (v : Variant) (k : Kind) (m : Frame) : Bool :=
  (fieldsOf v k).all fun f => m.lane (l.get v k f).byte &&& (l.get v k f).mask == 0

/-- R92 for one entry of `CFG.FIXUP`. -/
def Cfg.fixupEntryOk (c : Cfg) (v : Variant) (code : BitVec 3) (role : Role) : Bool :=
  fixupHeaderFree (findFixup v code role c.fixup) &&
    fixupFieldFree c.layout v (kindOf v code role) (findFixup v code role c.fixup)

/-- 30_encoding.md R92: the whole of `CFG.FIXUP`. -/
def Cfg.fixupOk (c : Cfg) : Bool :=
  [Variant.legacy, .zoned].all fun v => [Role.indoorUnit, .controller].all fun r =>
    [0#3, 1#3, 2#3, 3#3, 4#3, 5#3, 6#3, 7#3].all fun code => c.fixupEntryOk v code r

/-- The momentary fields (00_scope.md R11). -/
def ConfigField.momentary : ConfigField → Bool
  | .advanceVerticalLouver => true
  | .advanceHorizontalLouver => true
  | .resetFilterTimer => true
  | .maintenance => true
  | .enabled => false
  | .economy => false
  | .setpoint => false
  | .testRun => false
  | .mode => false
  | .fanSpeed => false
  | .swingVertical => false
  | .swingHorizontal => false

/-- 42_fsm_rx.md R168: "`Zones` must be 0 in it". -/
def Cfg.featuresOk (c : Cfg) : Bool := !c.defaultFeatures.zones

/-- 70_reset_and_hazards.md R291: `CFG.FUNC_QUEUE_DEPTH >= 1`. -/
def Cfg.depthOk (c : Cfg) : Bool := decide (1 ≤ c.funcQueueDepth)

/-- 70_reset_and_hazards.md R291: `CFG.SELF_CLEARING` is a subset of the four momentary fields. -/
def Cfg.selfClearingOk (c : Cfg) : Bool := c.selfClearing.all ConfigField.momentary

/-- 70_reset_and_hazards.md R291: what the model checks of `CFG` at reset. -/
def Cfg.wellFormed (c : Cfg) : Bool :=
  c.layout.wellFormed && c.fixupOk && c.featuresOk && c.depthOk && c.selfClearingOk

/-- 41_codec_frames.md R131: the body is of the kind of the packet. -/
def Packet.shaped (c : Cfg) (p : Packet) : Bool :=
  match packetKind c p, p.body with
  | .configIU, .config _ => true
  | .configC, .config _ => true
  | .error, .error _ => true
  | .features, .features _ => true
  | .function, .function _ => true
  | .status, .status => true
  | .zoneConfigIU, .zoneConfig _ => true
  | .zoneConfigC, .zoneConfig _ => true
  | .zoneFunctionIU, .zoneFunction _ => true
  | .zoneFunctionC, .zoneFunction _ => true
  | .unknown, .none => true
  | _, _ => false

/-- 41_codec_frames.md R145: a `Temperature` that survives encode and decode: a multiple of 128 below
16320 (Zoned) or of 256 below 16256 (Legacy). -/
def tempCanonical (v : Variant) (t : Temp) : Bool :=
  match v with
  | .zoned => t.toNat % 128 == 0 && decide (t.toNat < 16320)
  | .legacy => t.toNat % 256 == 0 && decide (t.toNat < 16256)

/-- The part of R145's "canonical" that concerns the body: the other role's sub-record is 0, `Write`
and `Zones` are 0 where the kind has no such field, the temperature is exact. -/
def Packet.bodyCanonical (c : Cfg) (p : Packet) : Bool :=
  match packetKind c p, p.body with
  | .configIU, .config b => b.ctl == {}
  | .configC, .config b => b.iu == {} && tempCanonical c.variant b.ctl.temperature
  | .features, .features f => !(c.variant == .legacy && f.zones)
  | .zoneConfigIU, .zoneConfig b => !b.write
  | .zoneFunctionC, .zoneFunction b => b == {}
  | _, _ => true

/-- 41_codec_frames.md R145: a packet is canonical. -/
def Packet.canonical (c : Cfg) (p : Packet) : Bool :=
  p.shaped c && decide (p.src.addr.toNat ≤ 15) && decide (p.tok.addr.toNat ≤ 15) &&
    p.bodyCanonical c

/-- The operand `ignored` of a frame row holds no bit of the header or of a field. -/
def ignoredOk (c : Cfg) (k : Kind) (m : Frame) : Bool := m.and (coveredBits c k) == Frame.zero

/-- Well-formed operands under a configuration. A frame row is well formed when its packet is
canonical (so its kind exists in the variant) and `ignored` holds only ignored bits; a field
primitive when its descriptor meets R77 items 1 and 2; ENCODE when the packet has the shape of its
kind. Every operand of the other rows is held at its own width and every value of it is one. -/
def Instr.wellFormed (c : Cfg) (i : Instr) : Bool :=
  match i.received with
  | some (h, p) => p.canonical c && ignoredOk c (packetKind c p) h.ignored
  | none => match i with
    | .getField d => d.byteOk && d.maskOk
    | .setField d _ => d.byteOk && d.maskOk
    | .encode p => p.shaped c
    | .encodeLogical p => p.shaped c
    | _ => true

end Sys2Proof
end

