-- ==== Sys2Proof/Decode.lean ====
section
/-! DEFINITION. What stands on a port read as an instruction, and back. A received wire frame decodes
to the row of its kind (30_encoding.md R74, 41_codec_frames.md R130), a command word to the row of its
`op` (30_encoding.md R101). Both are total. Bytes of another length than a frame's are rejected by
name (20_memory.md R53). -/

namespace Sys2Proof

/-- Why bytes are no frame. -/
inductive DecodeError where
  /-- 20_memory.md R53: "Fails only if given a buffer not exactly 8 bytes (a contract violation, not a
  protocol error)". The 64-bit RX port cannot present one. -/
  | notEightBytes (n : Nat)
deriving DecidableEq, Repr

/-- The operands common to the frame rows, from a logical frame of kind `k`. -/
def decodeHead (c : Cfg) (k : Kind) (buf : Frame) (last : Bool) : RxHead where
  srcAddr := (getFieldOf hdrSourceAddress buf).setWidth 4
  tokRole := Role.ofBit ((getFieldOf hdrTokenType buf).getLsbD 0)
  tokAddr := (getFieldOf hdrTokenAddress buf).setWidth 4
  last := last
  ignored := ignoredBits c k buf

/-- The source role of a logical frame (30_encoding.md R71, R73). -/
def decodeRole (buf : Frame) : Role := Role.ofBit ((getFieldOf hdrSourceType buf).getLsbD 0)

/-- The row of a logical frame: the kind by 30_encoding.md R74, the role of the four kinds that have
one layout for both, and the type code of an `Unknown`. -/
def decodeLogicalFrame (c : Cfg) (buf : Frame) (last : Bool) : Instr :=
  let k := kindOf c.variant (decodeType buf) (decodeRole buf)
  let h := decodeHead c k buf last
  match k with
  | .configIU => .configIU h (decodeCommon c .configIU buf) (decodeIU c buf)
  | .configC => .configC h (decodeCommon c .configC buf) (decodeCtl c buf)
  | .error => match decodeRole buf with
    | .indoorUnit => .errorIU h (decodeCode c buf)
    | .controller => .errorC h (decodeCode c buf)
  | .features => match decodeRole buf with
    | .indoorUnit => .featuresIU h (decodeFeatures c buf)
    | .controller => .featuresC h (decodeFeatures c buf)
  | .function => match decodeRole buf with
    | .indoorUnit => .functionIU h (decodeFunction c buf)
    | .controller => .functionC h (decodeFunction c buf)
  | .status => match decodeRole buf with
    | .indoorUnit => .statusIU h
    | .controller => .statusC h
  | .zoneConfigIU => .zoneConfigIU h (decodeZones c .zoneConfigIU buf)
  | .zoneConfigC => .zoneConfigC h (decodeZones c .zoneConfigC buf) (getFlag c .zoneConfigC buf .write)
  | .zoneFunctionIU => .zoneFunctionIU h (decodeZoneFunction c buf)
  | .zoneFunctionC => .zoneFunctionC h
  | .unknown => match (decodeType buf).toNat with
    | 5 => .unknown5Legacy h (decodeRole buf)
    | 6 => .unknown6Legacy h (decodeRole buf)
    | _ => .unknown7 h (decodeRole buf)

/-- A wire frame of the RX port and its `last` bit (42_fsm_rx.md R160: "any 64-bit value of the RX
port; the kind is found by `DECODE`"). -/
def decodeFrame (c : Cfg) (w : Frame) (last : Bool) : Instr :=
  decodeLogicalFrame c (invertFrame w) last

/-- A command word (30_encoding.md R101). -/
def decodeCmd (w : BitVec 32) : Instr :=
  match (cmdOp w).toNat with
  | 0 => .setEnabled (cmdOverride w) (argFlag w)
  | 1 => .setEconomy (cmdOverride w) (argFlag w)
  | 2 => .setTestRun (cmdOverride w) (argFlag w)
  | 3 => .setSetpoint (cmdOverride w) (argDegrees w)
  | 4 => .setMode (cmdOverride w) (argCode w)
  | 5 => .setFanSpeed (cmdOverride w) (argCode w)
  | 6 => .setVerticalSwing (cmdOverride w) (argFlag w)
  | 7 => .setHorizontalSwing (cmdOverride w) (argFlag w)
  | 8 => .advanceVerticalLouver (cmdOverride w)
  | 9 => .advanceHorizontalLouver (cmdOverride w)
  | 10 => .useSensor (cmdOverride w) (argFlag w)
  | 11 => .resetFilter (cmdOverride w)
  | 12 => .maintenance (cmdOverride w)
  | 13 => .setZone (cmdOverride w) (argZone w) (argZoneValue w)
  | 14 => .setZoneGroupDay (cmdOverride w) (argZone w) (argZoneValue w)
  | 15 => .setZoneGroupNight (cmdOverride w) (argZone w) (argZoneValue w)
  | 16 => .setCurrentTemperature (cmdOverride w) (argTemperature w)
  | 17 => .queueFunction (cmdOverride w) (argFunction w)
  | 18 => .reinit (cmdOverride w)
  | 19 => .undefinedOp19
  | 20 => .undefinedOp20
  | 21 => .undefinedOp21
  | 22 => .undefinedOp22
  | 23 => .undefinedOp23
  | 24 => .undefinedOp24
  | 25 => .undefinedOp25
  | 26 => .undefinedOp26
  | 27 => .undefinedOp27
  | 28 => .undefinedOp28
  | 29 => .undefinedOp29
  | 30 => .undefinedOp30
  | _ => .undefinedOp31

/-- Bytes in line order, `B[0]` first, read as a wire frame. -/
def decodeBytes (c : Cfg) (bs : List Byte) (last : Bool) : Except DecodeError Instr :=
  match bs with
  | [b0, b1, b2, b3, b4, b5, b6, b7] => .ok (decodeFrame c ⟨b0, b1, b2, b3, b4, b5, b6, b7⟩ last)
  | _ => .error (.notEightBytes bs.length)

/-! The encoder, from the same tables. -/

/-- What stands on a port: a wire frame with `last` on RX, or a word on CMD (60_exceptions.md R272). -/
inductive Presented where
  | rx (w : Frame) (last : Bool)
  | cmd (w : BitVec 32)
deriving DecidableEq, Repr

/-- A 1-bit operand in `arg[0]`. -/
def flagArg (v : Bool) : BitVec 24 := (BitVec.ofBool v).setWidth 24

/-- What presents an instruction: for a frame row the wire frame with its fields and its ignored bits,
for a command the word of 30_encoding.md R101, ignored bits 0. The rows of format primitive have an
encoding of "-" (30_encoding.md R105). -/
def encode (c : Cfg) (i : Instr) : Option Presented :=
  match i.received with
  | some (h, p) => some (.rx (invertFrame (rawOf c p h.ignored)) h.last)
  | none => match i with
    | .setEnabled o v => some (.cmd (cmdWord o 0 (flagArg v)))
    | .setEconomy o v => some (.cmd (cmdWord o 1 (flagArg v)))
    | .setTestRun o v => some (.cmd (cmdWord o 2 (flagArg v)))
    | .setSetpoint o d => some (.cmd (cmdWord o 3 (d.setWidth 24)))
    | .setMode o m => some (.cmd (cmdWord o 4 (m.setWidth 24)))
    | .setFanSpeed o sp => some (.cmd (cmdWord o 5 (sp.setWidth 24)))
    | .setVerticalSwing o v => some (.cmd (cmdWord o 6 (flagArg v)))
    | .setHorizontalSwing o v => some (.cmd (cmdWord o 7 (flagArg v)))
    | .advanceVerticalLouver o => some (.cmd (cmdWord o 8 0))
    | .advanceHorizontalLouver o => some (.cmd (cmdWord o 9 0))
    | .useSensor o v => some (.cmd (cmdWord o 10 (flagArg v)))
    | .resetFilter o => some (.cmd (cmdWord o 11 0))
    | .maintenance o => some (.cmd (cmdWord o 12 0))
    | .setZone o z v => some (.cmd (cmdWord o 13 (zoneArg z v)))
    | .setZoneGroupDay o z v => some (.cmd (cmdWord o 14 (zoneArg z v)))
    | .setZoneGroupNight o z v => some (.cmd (cmdWord o 15 (zoneArg z v)))
    | .setCurrentTemperature o t => some (.cmd (cmdWord o 16 (t.setWidth 24)))
    | .queueFunction o b => some (.cmd (cmdWord o 17 (functionArg b)))
    | .reinit o => some (.cmd (cmdWord o 18 0))
    | .undefinedOp19 => some (.cmd (cmdWord false 19 0))
    | .undefinedOp20 => some (.cmd (cmdWord false 20 0))
    | .undefinedOp21 => some (.cmd (cmdWord false 21 0))
    | .undefinedOp22 => some (.cmd (cmdWord false 22 0))
    | .undefinedOp23 => some (.cmd (cmdWord false 23 0))
    | .undefinedOp24 => some (.cmd (cmdWord false 24 0))
    | .undefinedOp25 => some (.cmd (cmdWord false 25 0))
    | .undefinedOp26 => some (.cmd (cmdWord false 26 0))
    | .undefinedOp27 => some (.cmd (cmdWord false 27 0))
    | .undefinedOp28 => some (.cmd (cmdWord false 28 0))
    | .undefinedOp29 => some (.cmd (cmdWord false 29 0))
    | .undefinedOp30 => some (.cmd (cmdWord false 30 0))
    | .undefinedOp31 => some (.cmd (cmdWord false 31 0))
    | _ => none

/-- What is presented, read back. -/
def decodePresented (c : Cfg) : Presented → Instr
  | .rx w last => decodeFrame c w last
  | .cmd w => decodeCmd w

/-! The host's question about a row of spec/opcode_table.json. -/

/-- The bytes of a wire frame in line order. -/
def Frame.bytes (f : Frame) : List Byte := [f.b0, f.b1, f.b2, f.b3, f.b4, f.b5, f.b6, f.b7]

/-- The wire frame of a table word: the table's bits are those of the logical frame (30_encoding.md
R105), `B[0]` in the low byte, and the hardware stores their complement (20_memory.md R52). -/
def tableFrame (w : Nat) : Frame := invertFrame (Frame.ofPort (BitVec.ofNat 64 w))

/-- The instruction the decoder reads from a table word of `nbits` bits: 64 for a frame (`last`, which
stands above the 64 data bits, is 0), 32 for a command word. The variant is the one of the reference
configuration after reset, Zoned. No row has another size. -/
def decodeTableWord (nbits w : Nat) : Option Instr :=
  if nbits = 64 then
    match decodeBytes (cfgRef .zoned 0) (tableFrame w).bytes false with
    | .ok i => some i
    | .error _ => none
  else if nbits = 32 then some (decodeCmd (BitVec.ofNat 32 w))
  else none

end Sys2Proof
end

