-- ==== Sys2Proof/Machine/State.lean ====
section
/-! DEFINITION. The state: the configuration, the session registers, the transients (the three classes
of 10_state.md R20), and the ports (60_exceptions.md R272), as plain data. -/

namespace Sys2Proof.Machine

/-- Why the machine would stop with a fault: never. 60_exceptions.md R250: "A model needs no fault
outcome for any operation of this block: every `RX_FRAME` and every command completes." So there is
no constructor (safe: nothing the spec lets happen is stopped). -/
inductive Fault where
deriving DecidableEq, Repr

/-- Why the machine refuses to step. -/
inductive Refusal where
  /-- Raised by `exec` for an instruction with no meaning; no arm of this model answers it. Safe. -/
  | notModelled (mnemonic : String)
  /-- Raised by the reset transaction when the configuration it samples is not well formed.
  70_reset_and_hazards.md R291: "an ill-formed `CFG` is refused: the model gives such a block no
  behaviour at all". Safe. -/
  | illFormedConfig
deriving DecidableEq, Repr

/-- 10_state.md R26: the two fields of `S.cur.ctl`, "two fields the indoor unit never reports". -/
structure CurCtl where
  temperature : Temp := 0
  useControllerSensor : Bool := false
deriving DecidableEq, Repr

/-- 10_state.md R26: `S.cur`, the "latest merged device state". -/
structure Cur where
  common : ConfigCommon := {}
  iu : IUSub := {}
  ctl : CurCtl := {}
deriving DecidableEq, Repr

/-- 10_state.md R27: `S.chg`, one value for each `ConfigField` (R28): the fields of `ConfigCommon`
and the four momentary fields. -/
structure Chg where
  common : ConfigCommon := {}
  advanceVerticalLouver : Bool := false
  advanceHorizontalLouver : Bool := false
  resetFilterTimer : Bool := false
  maintenance : Bool := false
deriving DecidableEq, Repr

/-- 10_state.md R22 to R33: the session registers. -/
structure Session where
  /-- R22 -/
  stage : Stage := .detectFeatureSupport
  /-- R25 -/
  features : Features := {}
  /-- R26 -/
  cur : Cur := {}
  /-- R27 -/
  chg : Chg := {}
  /-- R28: bit index = `ConfigField` index -/
  dirty : BitVec 12 := 0
  /-- R29 -/
  zcur : ZoneFields := {}
  /-- R29 -/
  zchg : ZoneFields := {}
  /-- R29: bit index = `ZoneField` index -/
  zdirty : BitVec 5 := 0
  /-- R30 -/
  zoneEnabled : ZoneMask := 0
  /-- R30 -/
  zoneCommon : Bool := false
  /-- R31 -/
  nextTok : Role := .indoorUnit
  /-- R32: head first -/
  funcq : List FunctionBody := []
  /-- R33 -/
  lastError : Bool := false
deriving DecidableEq, Repr

/-- 30_encoding.md R102: the events of the EVT port; each payload is "the record named". The codes stand
in Machine/Ops.lean (`Event.code`). -/
inductive Event where
  | rawRx (l : Frame)
  | rawTx (l : Frame)
  | stageChanged (stage : Stage) (features : Features)
  | configUpdate (cur : Cur)
  | error (code : Byte)
  | functionReceived (b : FunctionBody)
  | zoneConfigUpdate (z : ZoneFields)
  | remoteControllerConfig (addr : Addr) (b : ConfigBody)
deriving DecidableEq, Repr

/-- What leaves the block: an event on EVT, a wire frame on TX as its 64-bit port vector, the answer
`cmd_accept` to a command (60_exceptions.md R272). -/
inductive Output where
  | evt (e : Event)
  | tx (data : BitVec 64)
  | cmdAccept (b : Bool)
deriving DecidableEq, Repr

/-- What a codec primitive returned: the model's own, since a primitive is a pure function whose
result no register of the spec holds (log entry 7). -/
inductive CodecResult where
  | none
  | nibble (v : BitVec 4)
  | byte (v : Byte)
  | packed (v : BitVec 17)
  | temp (t : Temp)
  | frame (f : Frame)
  | packet (p : Packet)
deriving DecidableEq, Repr

/-- The transients: BUF (10_state.md R21), the three of R34, the `turn` of 42_fsm_rx.md R178, the reply
`r` of 42_fsm_rx.md R160, and the model's own `result`. The defaults are the values they hold between
transactions, when the spec says they do not exist (log entry 6). -/
structure Transients where
  buf : Frame := Frame.zero
  errChanged : Bool := false
  errObserved : Bool := false
  pending : Option Event := none
  turn : Bool := false
  reply : Option Packet := none
  result : CodecResult := .none
deriving DecidableEq, Repr

/-- No transaction under way. -/
def Transients.idle : Transients := {}

/-- 60_exceptions.md R268: one presentation on the RX port, 64 data bits and `last`. -/
structure RxItem where
  data : BitVec 64
  last : Bool
deriving DecidableEq, Repr

/-- 60_exceptions.md R272: the ports. The input ports hold what the environment has presented and the
block has not taken; `out` is the trace of all that left the block, oldest first. -/
structure Ports where
  rst : Option Cfg := none
  rx : List RxItem := []
  cmd : List (BitVec 32) := []
  out : List Output := []
deriving DecidableEq, Repr

structure State where
  /-- 00_scope.md R6; sampled by reset and written by nothing else -/
  cfg : Cfg
  /-- 10_state.md R20: the session state `S` -/
  S : Session
  /-- 10_state.md R20: the transients -/
  work : Transients
  /-- 60_exceptions.md R272 -/
  ports : Ports
deriving DecidableEq, Repr

/-- 10_state.md R37, 70_reset_and_hazards.md R290: the reset value of every session register. -/
def Session.reset : Session where
  stage := .detectFeatureSupport
  features := {}
  cur := {}
  chg := {}
  dirty := 0
  zcur := {}
  zchg := {}
  zdirty := 0
  zoneEnabled := 0
  zoneCommon := false
  nextTok := .indoorUnit
  funcq := []
  lastError := false

/-- The block after reset with a given configuration, nothing presented and nothing sent. -/
def State.resetWith (c : Cfg) : State where
  cfg := c
  S := Session.reset
  work := Transients.idle
  ports := {}

/-- The block after reset. The straps have no default in the spec: Zoned and address 0 are the
model's choice (DESIGN CHOICE, log entry 2), those of the test vectors' head; the other parameters are
the defaults of 00_scope.md R6. -/
def State.reset : State := State.resetWith (cfgRef .zoned 0)

end Sys2Proof.Machine
end

