-- ==== Sys2Proof/Machine/Flags.lean ====
section
/-! DEFINITION. The bitsets and the conditions: the dirty bits (10_state.md R28, R29), the lock and
feature checks and the rejection causes of the host commands (43_host_commands.md R212, R213,
60_exceptions.md R251), the momentary fields of 42_fsm_rx.md R191, and the turn (R178). -/

namespace Sys2Proof.Machine

/-- 10_state.md R28: the index of a dirty bit. -/
def dirtyIndex : ConfigField → Nat
  | .enabled => 0
  | .economy => 1
  | .setpoint => 2
  | .testRun => 3
  | .mode => 4
  | .fanSpeed => 5
  | .swingVertical => 6
  | .swingHorizontal => 7
  | .advanceVerticalLouver => 8
  | .advanceHorizontalLouver => 9
  | .resetFilterTimer => 10
  | .maintenance => 11

/-- 10_state.md R29: the index of a zone dirty bit. -/
def zdirtyIndex : ZoneField → Nat
  | .activeZones => 0
  | .zoneGroupDay => 1
  | .zoneGroupNight => 2
  | .dayGroupActive => 3
  | .nightGroupActive => 4

/-- `S.dirty[f] = 1`. -/
def isDirty (d : BitVec 12) (f : ConfigField) : Bool := d.getLsbD (dirtyIndex f)

/-- `S.dirty[f] <- 1`. -/
def markDirty (d : BitVec 12) (f : ConfigField) : BitVec 12 := d ||| 1#12 <<< dirtyIndex f

/-- `S.zdirty[f] = 1`. -/
def isZDirty (d : BitVec 5) (f : ZoneField) : Bool := d.getLsbD (zdirtyIndex f)

/-- `S.zdirty[f] <- 1`. -/
def markZDirty (d : BitVec 5) (f : ZoneField) : BitVec 5 := d ||| 1#5 <<< zdirtyIndex f

/-- The value of a lock flag in `S.cur.iu`. -/
def lockFlag (iu : IUSub) : LockFlag → Bool
  | .lockAll => iu.lockAll
  | .lockEnabled => iu.lockEnabled
  | .lockMode => iu.lockMode
  | .lockSetpoint => iu.lockSetpoint
  | .lockFilterReset => iu.lockFilterReset

/-- 43_host_commands.md R212: "`locked(cmd) = (override = 0) and (some flag in CFG.LOCK_MAP[cmd] is 1
in S.cur.iu)`". -/
def locked (s : State) (cmd : LockCmd) (override : Bool) : Bool :=
  !override && s.cfg.lockMap.any fun e => decide (e.1 = cmd) && lockFlag s.S.cur.iu e.2

/-- 30_encoding.md R96: the codes that name a mode. -/
def modeDefined (m : BitVec 3) : Bool := decide (1 ≤ m.toNat ∧ m.toNat ≤ 5)

/-- 30_encoding.md R96, 43_host_commands.md R218: the feature bit paired with a mode code; codes 0, 6
and 7 have none and are never supported. -/
def modeSupported (f : Features) (m : BitVec 3) : Bool :=
  match m.toNat with
  | 1 => f.modeFan
  | 2 => f.modeDry
  | 3 => f.modeCool
  | 4 => f.modeHeat
  | 5 => f.modeAuto
  | _ => false

/-- 30_encoding.md R97: the codes that name a fan speed. -/
def speedDefined (m : BitVec 3) : Bool := decide (m.toNat ≤ 4)

/-- 30_encoding.md R97, 43_host_commands.md R219: the feature bit paired with a fan speed code; codes
5, 6 and 7 have none and are never supported. -/
def speedSupported (f : Features) (m : BitVec 3) : Bool :=
  match m.toNat with
  | 0 => f.fanAuto
  | 1 => f.fanQuiet
  | 2 => f.fanLow
  | 3 => f.fanMedium
  | 4 => f.fanHigh
  | _ => false

/-- 60_exceptions.md R251: the rejection causes. "not visible on any port". -/
inductive RejectCause where
  | locked
  | featureMissing
  | variantLegacy
  | setpointRange
  | undefinedCode
  | zoneNumber
  | zoneNotEnabled
  | lastActiveZone
  | queueFull
  | undefinedOp
deriving DecidableEq, Repr

/-- The first of a list of checks that refuses: `(holds, cause)` refuses where `holds` is true. The
order is not observable (43_host_commands.md R211). -/
def firstCause : List (Bool × RejectCause) → Option RejectCause
  | [] => none
  | (b, c) :: rest => if b then some c else firstCause rest

/-- The checks of the zone commands that all three make (43_host_commands.md R229 to R231). -/
def zoneChecks (s : State) (cmd : LockCmd) (o : Bool) (z : BitVec 4) : List (Bool × RejectCause) :=
  [(decide (s.cfg.variant = .legacy), .variantLegacy),
   (!s.S.features.zones, .featureMissing),
   (locked s cmd o, .locked),
   (!zoneInRange z, .zoneNumber),
   (!zoneMember s.S.zoneEnabled z, .zoneNotEnabled)]

/-- 43_host_commands.md R229: the value a zone command works on, the pending one where there is one. -/
def zoneBase (s : State) (f : ZoneField) (get : ZoneFields → ZoneMask) : ZoneMask :=
  if isZDirty s.S.zdirty f then get s.S.zchg else get s.S.zcur

/-- 42_fsm_rx.md R178: `turn <- (last = 1) and (p.tok.role = Controller) and (p.tok.addr =
CFG.CTRL_ADDR)`. -/
def givesTurn (c : Cfg) (p : Packet) (last : Bool) : Bool :=
  last && decide (p.tok.role = .controller) && decide (p.tok.addr = c.ctrlAddr.setWidth 8)

/-- 60_exceptions.md R280 item 1: primary is `CFG.CTRL_ADDR = 0`. -/
def isPrimary (c : Cfg) : Bool := decide (c.ctrlAddr = 0)

/-- Zone negotiation applies: "`CFG.VARIANT = Zoned and S.features.Zones = 1`" (42_fsm_rx.md R163,
R170). -/
def zonesNegotiated (c : Cfg) (f : Features) : Bool := decide (c.variant = .zoned) && f.zones

/-- `S.chg.f = 1`, for a momentary field (42_fsm_rx.md R191). Only momentary fields may be
self-clearing (70_reset_and_hazards.md R291). -/
def momentaryValue (g : Chg) : ConfigField → Bool
  | .advanceVerticalLouver => g.advanceVerticalLouver
  | .advanceHorizontalLouver => g.advanceHorizontalLouver
  | .resetFilterTimer => g.resetFilterTimer
  | .maintenance => g.maintenance
  | .enabled => false
  | .economy => false
  | .setpoint => false
  | .testRun => false
  | .mode => false
  | .fanSpeed => false
  | .swingVertical => false
  | .swingHorizontal => false

/-- `S.chg.f <- 0`, for a momentary field (42_fsm_rx.md R191). -/
def clearMomentary (g : Chg) : ConfigField → Chg
  | .advanceVerticalLouver => { g with advanceVerticalLouver := false }
  | .advanceHorizontalLouver => { g with advanceHorizontalLouver := false }
  | .resetFilterTimer => { g with resetFilterTimer := false }
  | .maintenance => { g with maintenance := false }
  | .enabled => g
  | .economy => g
  | .setpoint => g
  | .testRun => g
  | .mode => g
  | .fanSpeed => g
  | .swingVertical => g
  | .swingHorizontal => g

end Sys2Proof.Machine
end

