-- ==== Sys2Proof/Machine/Ops.lean ====
section
/-! DEFINITION. The shared operations on a state: outputs, the events with their codes, the stage register, the
end of a host command, and the reset transaction.

The block has no trap: 60_exceptions.md R250, R265 and R266 give it neither an entry nor a return. What
stands in their place is here: `emit` (R256), `setStage` (42_fsm_rx.md R161) and `accept` and `reject`
(43_host_commands.md R210). -/

namespace Sys2Proof.Machine

/-- Change the session registers only. -/
def State.withS (s : State) (f : Session → Session) : State := { s with S := f s.S }

/-- Change the transients only. -/
def State.withWork (s : State) (f : Transients → Transients) : State := { s with work := f s.work }

/-- Something leaves the block: it is appended to the trace (60_exceptions.md R256). -/
def State.put (s : State) (o : Output) : State :=
  { s with ports := { s.ports with out := s.ports.out ++ [o] } }

/-- 60_exceptions.md R256: `emit E(payload)`. -/
def State.emit (s : State) (e : Event) : State := s.put (.evt e)

/-- 30_encoding.md R102: the code of an event kind, 3 bits (the spec's own decision D26). -/
def Event.code : Event → BitVec 3
  | .rawRx _ => 0
  | .rawTx _ => 1
  | .stageChanged _ _ => 2
  | .configUpdate _ => 3
  | .error _ => 4
  | .functionReceived _ => 5
  | .zoneConfigUpdate _ => 6
  | .remoteControllerConfig _ _ => 7

/-- What one output puts on the EVT port: "event code (3 bits) and payload record" (60_exceptions.md
R272). A wire frame and a command's answer leave by the other ports. -/
def Output.onEvt : Output → Option (BitVec 3 × Event)
  | .evt e => some (e.code, e)
  | .tx _ => none
  | .cmdAccept _ => none

/-- What the EVT port carries for a trace, in the order of the `emit` calls (60_exceptions.md R256,
R272). -/
def evtPort (outs : List Output) : List (BitVec 3 × Event) := outs.filterMap Output.onEvt

/-- 42_fsm_rx.md R161: `S.stage <- s; emit StageChanged(s, S.features)`. -/
def State.setStage (s : State) (st : Stage) : State :=
  (s.withS fun S => { S with stage := st }).emit (.stageChanged st s.S.features)

/-- 43_host_commands.md R210: end a command with `cmd_accept = 1`. -/
def State.accept (s : State) : State := s.put (.cmdAccept true)

/-- 43_host_commands.md R210: end a command with `cmd_accept = 0`; "A rejected command changes no
state and emits nothing". -/
def State.reject (s : State) : State := s.put (.cmdAccept false)

/-- A command ends: rejected where a check refuses, else its update and `accept`. -/
def finishCommand (cause : Option RejectCause) (update : State → State) (s : State) : State :=
  match cause with
  | some _ => s.reject
  | none => (update s).accept

/-- 43_host_commands.md R211: the template of a configuration command: `S.chg.f <- v`,
`S.dirty[f] <- 1`. -/
def configCommand (checks : List (Bool × RejectCause)) (f : ConfigField) (setChg : Chg → Chg)
    (s : State) : State :=
  finishCommand (firstCause checks)
    (fun s => s.withS fun S => { S with chg := setChg S.chg, dirty := markDirty S.dirty f }) s

/-- 43_host_commands.md R229, R230: the group-active flags are pending as 0 ("any successful
zone-membership change invalidates both day/night group-active flags"). -/
def clearGroupsActive (S : Session) : Session :=
  { S with
    zchg := { S.zchg with dayGroupActive := false, nightGroupActive := false }
    zdirty := markZDirty (markZDirty S.zdirty .dayGroupActive) .nightGroupActive }

/-- 70_reset_and_hazards.md R290: the reset transaction. It samples `CFG`, writes the reset value of
every session register, emits nothing and transmits nothing. What stands on the other input ports and
what has left the block are the environment's and stay. -/
def resetTransaction (c : Cfg) (s : State) : State where
  cfg := c
  S := Session.reset
  work := Transients.idle
  ports := { s.ports with rst := none }

end Sys2Proof.Machine
end

