-- ==== Sys2Proof/Machine/Commands.lean ====
section
/-! DEFINITION. The host commands of 43_host_commands.md R214 to R228, R232, R233. Each ends in
`accept` or `reject` (R210) and never waits; the list of checks of each is its row of
60_exceptions.md R251. -/

namespace Sys2Proof.Machine

/-- The checks of `SET_ENABLED` (R214). -/
def setEnabledChecks (o : Bool) (s : State) : List (Bool × RejectCause) :=
  [(locked s .setEnabled o, .locked)]

/-- 43_host_commands.md R214: `SET_ENABLED`. -/
def execSetEnabled (o v : Bool) (s : State) : Host.Outcome State Fault Refusal :=
  .next (configCommand (setEnabledChecks o s) .enabled
    (fun g => { g with common := { g.common with enabled := v } }) s)

/-- The checks of `SET_ECONOMY` (R215). -/
def setEconomyChecks (o : Bool) (s : State) : List (Bool × RejectCause) :=
  [(locked s .setEconomy o, .locked), (!s.S.features.economyMode, .featureMissing)]

/-- 43_host_commands.md R215: `SET_ECONOMY`. -/
def execSetEconomy (o v : Bool) (s : State) : Host.Outcome State Fault Refusal :=
  .next (configCommand (setEconomyChecks o s) .economy
    (fun g => { g with common := { g.common with economy := v } }) s)

/-- The checks of `SET_TEST_RUN` (R216). -/
def setTestRunChecks (o : Bool) (s : State) : List (Bool × RejectCause) :=
  [(locked s .setTestRun o, .locked)]

/-- 43_host_commands.md R216: `SET_TEST_RUN`. -/
def execSetTestRun (o v : Bool) (s : State) : Host.Outcome State Fault Refusal :=
  .next (configCommand (setTestRunChecks o s) .testRun
    (fun g => { g with common := { g.common with testRun := v } }) s)

/-- The checks of `SET_SETPOINT` (R217). -/
def setSetpointChecks (o : Bool) (d : BitVec 8) (s : State) : List (Bool × RejectCause) :=
  [(locked s .setSetpoint o, .locked), (!setpointInRange d, .setpointRange)]

/-- 43_host_commands.md R217: `SET_SETPOINT`. -/
def execSetSetpoint (o : Bool) (d : BitVec 8) (s : State) : Host.Outcome State Fault Refusal :=
  .next (configCommand (setSetpointChecks o d s) .setpoint
    (fun g => { g with common := { g.common with setpoint := d.setWidth 7 } }) s)

/-- The checks of `SET_MODE` (R218). -/
def setModeChecks (o : Bool) (m : BitVec 3) (s : State) : List (Bool × RejectCause) :=
  [(locked s .setMode o, .locked), (!modeDefined m, .undefinedCode),
     (!modeSupported s.S.features m, .featureMissing)]

/-- 43_host_commands.md R218: `SET_MODE`. -/
def execSetMode (o : Bool) (m : BitVec 3) (s : State) : Host.Outcome State Fault Refusal :=
  .next (configCommand (setModeChecks o m s) .mode
    (fun g => { g with common := { g.common with mode := m } }) s)

/-- The checks of `SET_FAN_SPEED` (R219). -/
def setFanSpeedChecks (o : Bool) (sp : BitVec 3) (s : State) : List (Bool × RejectCause) :=
  [(locked s .setFanSpeed o, .locked), (!speedDefined sp, .undefinedCode),
     (!speedSupported s.S.features sp, .featureMissing)]

/-- 43_host_commands.md R219: `SET_FAN_SPEED`. -/
def execSetFanSpeed (o : Bool) (sp : BitVec 3) (s : State) : Host.Outcome State Fault Refusal :=
  .next (configCommand (setFanSpeedChecks o sp s) .fanSpeed
    (fun g => { g with common := { g.common with fanSpeed := sp } }) s)

/-- The checks of `SET_VERTICAL_SWING` (R220). -/
def setVerticalSwingChecks (o : Bool) (s : State) : List (Bool × RejectCause) :=
  [(locked s .setVerticalSwing o, .locked), (!s.S.features.verticalLouvers, .featureMissing)]

/-- 43_host_commands.md R220: `SET_VERTICAL_SWING`. -/
def execSetVerticalSwing (o v : Bool) (s : State) : Host.Outcome State Fault Refusal :=
  .next (configCommand (setVerticalSwingChecks o s) .swingVertical
    (fun g => { g with common := { g.common with swingVertical := v } }) s)

/-- The checks of `SET_HORIZONTAL_SWING` (R221). -/
def setHorizontalSwingChecks (o : Bool) (s : State) : List (Bool × RejectCause) :=
  [(locked s .setHorizontalSwing o, .locked),
     (!s.S.features.horizontalLouvers, .featureMissing)]

/-- 43_host_commands.md R221: `SET_HORIZONTAL_SWING`. -/
def execSetHorizontalSwing (o v : Bool) (s : State) : Host.Outcome State Fault Refusal :=
  .next (configCommand (setHorizontalSwingChecks o s) .swingHorizontal
    (fun g => { g with common := { g.common with swingHorizontal := v } }) s)

/-- The checks of `ADVANCE_VERTICAL_LOUVER` (R222). -/
def advanceVerticalLouverChecks (o : Bool) (s : State) : List (Bool × RejectCause) :=
  [(locked s .advanceVerticalLouver o, .locked),
     (!s.S.features.verticalLouvers, .featureMissing)]

/-- 43_host_commands.md R222: `ADVANCE_VERTICAL_LOUVER`. -/
def execAdvanceVerticalLouver (o : Bool) (s : State) : Host.Outcome State Fault Refusal :=
  .next (configCommand (advanceVerticalLouverChecks o s) .advanceVerticalLouver
    (fun g => { g with advanceVerticalLouver := true }) s)

/-- The checks of `ADVANCE_HORIZONTAL_LOUVER` (R223). -/
def advanceHorizontalLouverChecks (o : Bool) (s : State) : List (Bool × RejectCause) :=
  [(locked s .advanceHorizontalLouver o, .locked),
     (!s.S.features.horizontalLouvers, .featureMissing)]

/-- 43_host_commands.md R223: `ADVANCE_HORIZONTAL_LOUVER`. -/
def execAdvanceHorizontalLouver (o : Bool) (s : State) : Host.Outcome State Fault Refusal :=
  .next (configCommand (advanceHorizontalLouverChecks o s) .advanceHorizontalLouver
    (fun g => { g with advanceHorizontalLouver := true }) s)

/-- The checks of `RESET_FILTER` (R225). -/
def resetFilterChecks (o : Bool) (s : State) : List (Bool × RejectCause) :=
  [(locked s .resetFilter o, .locked), (!s.S.features.filterTimer, .featureMissing)]

/-- 43_host_commands.md R225: `RESET_FILTER`. -/
def execResetFilter (o : Bool) (s : State) : Host.Outcome State Fault Refusal :=
  .next (configCommand (resetFilterChecks o s) .resetFilterTimer
    (fun g => { g with resetFilterTimer := true }) s)

/-- The checks of `MAINTENANCE` (R226). -/
def maintenanceChecks (o : Bool) (s : State) : List (Bool × RejectCause) :=
  [(locked s .maintenance o, .locked), (!s.S.features.maintenance, .featureMissing)]

/-- 43_host_commands.md R226: `MAINTENANCE`. -/
def execMaintenance (o : Bool) (s : State) : Host.Outcome State Fault Refusal :=
  .next (configCommand (maintenanceChecks o s) .maintenance
    (fun g => { g with maintenance := true }) s)

/-- The checks of `USE_SENSOR` (R224). -/
def useSensorChecks (o : Bool) (s : State) : List (Bool × RejectCause) :=
  [(locked s .useSensor o, .locked), (!s.S.features.sensorSwitching, .featureMissing)]

/-- 43_host_commands.md R224: `USE_SENSOR` writes the merged record and sets no dirty bit. -/
def execUseSensor (o v : Bool) (s : State) : Host.Outcome State Fault Refusal :=
  .next (finishCommand (firstCause (useSensorChecks o s))
    (fun s => s.withS fun S =>
      { S with cur := { S.cur with ctl := { S.cur.ctl with useControllerSensor := v } } }) s)

/-- 43_host_commands.md R228: `SET_CURRENT_TEMPERATURE`: "No lock check and no feature check; the
command is always accepted", so the override bit has no effect. -/
def execSetCurrentTemperature (_o : Bool) (t : BitVec 16) (s : State) :
    Host.Outcome State Fault Refusal :=
  .next (finishCommand none
    (fun s => s.withS fun S =>
      { S with cur := { S.cur with ctl := { S.cur.ctl with temperature := clampTemperature t } } }) s)

/-- The check of `QUEUE_FUNCTION` (R233): the queue is full. -/
def queueFunctionChecks (s : State) : List (Bool × RejectCause) :=
  [(decide (s.S.funcq.length = s.cfg.funcQueueDepth), .queueFull)]

/-- 43_host_commands.md R233: `QUEUE_FUNCTION`: "No lock check, no feature check", so the override bit
has no effect. -/
def execQueueFunction (_o : Bool) (b : FunctionBody) (s : State) :
    Host.Outcome State Fault Refusal :=
  .next (finishCommand (firstCause (queueFunctionChecks s))
    (fun s => s.withS fun S => { S with funcq := S.funcq ++ [b] }) s)

/-- 43_host_commands.md R232: what REINIT clears; `S.chg`, `S.dirty`, `S.zchg`, `S.zdirty`, `S.funcq`
and `S.cur.ctl` are kept. The stage is set after it. -/
def reinitSession (S : Session) : Session :=
  { S with
    features := {}
    cur := { S.cur with common := {}, iu := {} }
    zcur := {}
    zoneEnabled := 0
    zoneCommon := false
    nextTok := .indoorUnit
    lastError := false }

/-- 43_host_commands.md R232: `REINIT`: "never locked; the override bit is ignored". -/
def execReinit (_o : Bool) (s : State) : Host.Outcome State Fault Refusal :=
  .next (finishCommand none
    (fun s => (s.withS reinitSession).setStage .detectFeatureSupport) s)

end Sys2Proof.Machine
end

