-- ==== Sys2Proof/Machine/Reply.lean ====
section
/-! DEFINITION. Step 3 of RX_FRAME: the bus turn, the reply and its transmission
(42_fsm_rx.md R178 to R192). -/

namespace Sys2Proof.Machine

/-- 42_fsm_rx.md R180: reaching `FindNextControllerTx` while holding the token. -/
def probeNeighbour (s : State) : State :=
  if s.S.stage = .findNextControllerTx then
    (s.withS fun S => { S with nextTok := .controller }).setStage .findNextControllerRx
  else s

/-- 42_fsm_rx.md R179: `r.src <- (Controller, CFG.CTRL_ADDR)`. -/
def replySource (s : State) : Address := ⟨.controller, s.cfg.ctrlAddr.setWidth 8⟩

/-- 42_fsm_rx.md R179: the stored next token destination; the neighbour's address, or
`CFG.IU_TOKEN_ADDR`. -/
def replyToken (s : State) : Address :=
  match s.S.nextTok with
  | .controller => ⟨.controller, neighbourAddr s.cfg.ctrlAddr⟩
  | .indoorUnit => ⟨.indoorUnit, s.cfg.iuTokenAddr.setWidth 8⟩

/-- The reply `r` is the packet of a type code and a body under the header of R179. -/
def State.setReply (s : State) (code : BitVec 3) (body : Body) : State :=
  s.withWork fun w => { w with reply := some ⟨replySource s, replyToken s, code, body⟩ }

/-- The alternatives of 42_fsm_rx.md R181. -/
inductive Reply where
  | featuresReq
  | zoneFunctionReq
  | zoneConfigReq
  | error
  | zoneWrite
  | function
  | config
deriving DecidableEq, Repr

/-- 42_fsm_rx.md R181 order 4: `(err_changed and CFG.CTRL_ADDR = 0) or (err_observed and CFG.CTRL_ADDR
!= 0)`. -/
def errorDue (s : State) : Bool :=
  (s.work.errChanged && isPrimary s.cfg) || (s.work.errObserved && !isPrimary s.cfg)

/-- 42_fsm_rx.md R181: "The first alternative whose condition holds is taken". -/
def chooseReply (s : State) : Reply :=
  if s.S.stage = .featureRequest then .featuresReq
  else if s.S.stage = .zoneRequestEnabled then .zoneFunctionReq
  else if s.S.stage = .zoneRequestActive then .zoneConfigReq
  else if errorDue s then .error
  else if s.S.zdirty ≠ 0 then .zoneWrite
  else if s.S.funcq ≠ [] then .function
  else .config

/-- 42_fsm_rx.md R183: "empty Features, Type=Features". -/
def replyFeaturesReq (s : State) : State := s.setReply typeFeatures (.features {})

/-- 42_fsm_rx.md R184: the Error reply carries `Code = 0`. -/
def replyError (s : State) : State := s.setReply typeError (.error 0)

/-- 42_fsm_rx.md R185. -/
def replyZoneFunctionReq (s : State) : State := s.setReply typeZoneFunction (.zoneFunction {})

/-- 42_fsm_rx.md R186. -/
def replyZoneConfigReq (s : State) : State := s.setReply typeZoneConfig (.zoneConfig {})

/-- 42_fsm_rx.md R187: the dirty zone fields on top of the last known zone configuration. -/
def mergedZones (S : Session) : ZoneFields where
  activeZones := if isZDirty S.zdirty .activeZones then S.zchg.activeZones else S.zcur.activeZones
  zoneGroupDay :=
    if isZDirty S.zdirty .zoneGroupDay then S.zchg.zoneGroupDay else S.zcur.zoneGroupDay
  zoneGroupNight :=
    if isZDirty S.zdirty .zoneGroupNight then S.zchg.zoneGroupNight else S.zcur.zoneGroupNight
  dayGroupActive :=
    if isZDirty S.zdirty .dayGroupActive then S.zchg.dayGroupActive else S.zcur.dayGroupActive
  nightGroupActive :=
    if isZDirty S.zdirty .nightGroupActive then S.zchg.nightGroupActive else S.zcur.nightGroupActive

/-- 42_fsm_rx.md R187: the ZoneConfig write; "`S.zcur` is not modified". -/
def replyZoneWrite (s : State) : State :=
  (s.setReply typeZoneConfig (.zoneConfig { zones := mergedZones s.S, write := true })).withS
    fun S => { S with zdirty := 0 }

/-- 42_fsm_rx.md R188: pop the head of the queue and send it. The alternative is taken only where the
queue is not empty (R181); on an empty queue there is nothing to send. -/
def replyFunction (s : State) : State :=
  match s.S.funcq with
  | [] => s
  | b :: rest => (s.setReply typeFunction (.function b)).withS fun S => { S with funcq := rest }

/-- 42_fsm_rx.md R190: `ConfigCommon` of the reply: the last received device state with the dirty
fields from `S.chg`. -/
def mergedCommon (S : Session) : ConfigCommon where
  enabled := if isDirty S.dirty .enabled then S.chg.common.enabled else S.cur.common.enabled
  economy := if isDirty S.dirty .economy then S.chg.common.economy else S.cur.common.economy
  setpoint := if isDirty S.dirty .setpoint then S.chg.common.setpoint else S.cur.common.setpoint
  testRun := if isDirty S.dirty .testRun then S.chg.common.testRun else S.cur.common.testRun
  mode := if isDirty S.dirty .mode then S.chg.common.mode else S.cur.common.mode
  fanSpeed := if isDirty S.dirty .fanSpeed then S.chg.common.fanSpeed else S.cur.common.fanSpeed
  swingVertical :=
    if isDirty S.dirty .swingVertical then S.chg.common.swingVertical else S.cur.common.swingVertical
  swingHorizontal :=
    if isDirty S.dirty .swingHorizontal then S.chg.common.swingHorizontal
    else S.cur.common.swingHorizontal

/-- 42_fsm_rx.md R190: `CtlSub` of the reply: the two host-supplied fields, the momentary fields 0
unless dirty, `Write` set only if at least one dirty bit was applied. -/
def mergedCtl (S : Session) : CtlSub where
  write := decide (S.dirty ≠ 0)
  temperature := S.cur.ctl.temperature
  useControllerSensor := S.cur.ctl.useControllerSensor
  advanceVerticalLouver := isDirty S.dirty .advanceVerticalLouver && S.chg.advanceVerticalLouver
  advanceHorizontalLouver :=
    isDirty S.dirty .advanceHorizontalLouver && S.chg.advanceHorizontalLouver
  resetFilterTimer := isDirty S.dirty .resetFilterTimer && S.chg.resetFilterTimer
  maintenance := isDirty S.dirty .maintenance && S.chg.maintenance

/-- 42_fsm_rx.md R191 for one field: applied as 1, it becomes dirty-but-false again. -/
def selfClearOne (applied : BitVec 12) (S : Session) (f : ConfigField) : Session :=
  if isDirty applied f && momentaryValue S.chg f then
    { S with chg := clearMomentary S.chg f, dirty := markDirty S.dirty f }
  else S

/-- 42_fsm_rx.md R190 and R191: what building the Config reply does to the session registers. -/
def consumeDirty (selfClearing : List ConfigField) (S : Session) : Session :=
  selfClearing.foldl (selfClearOne S.dirty) { S with dirty := 0 }

/-- 42_fsm_rx.md R190: the Config write-or-poll. `S.cur` is not modified. -/
def replyConfig (s : State) : State :=
  (s.setReply typeConfig (.config { common := mergedCommon s.S, ctl := mergedCtl s.S })).withS
    (consumeDirty s.cfg.selfClearing)

/-- The reply of an alternative. -/
def buildReply (r : Reply) (s : State) : State :=
  match r with
  | .featuresReq => replyFeaturesReq s
  | .zoneFunctionReq => replyZoneFunctionReq s
  | .zoneConfigReq => replyZoneConfigReq s
  | .error => replyError s
  | .zoneWrite => replyZoneWrite s
  | .function => replyFunction s
  | .config => replyConfig s

/-- 42_fsm_rx.md R192: `L <- ENCODE_LOGICAL(r)`, the wire frame on TX, then `RawTx(L)`. -/
def transmit (s : State) : State :=
  match s.work.reply with
  | none => s
  | some r =>
    let l := encodeLogicalOf s.cfg r
    ((s.withWork fun w => { w with buf := l }).put (.tx (invertFrame l).toPort)).emit (.rawTx l)

/-- 42_fsm_rx.md R160 step 3: where the frame gives the turn (R178), the discovery action (R180), one
reply (R181) and its transmission (R192); else nothing. -/
def busTurn (p : Packet) (last : Bool) (s : State) : State :=
  let s1 := s.withWork fun w => { w with turn := givesTurn s.cfg p last }
  if s1.work.turn then
    let s2 := probeNeighbour s1
    transmit (buildReply (chooseReply s2) s2)
  else s1

/-- A pseudo-form (30_encoding.md R104) sent by itself: its reply is built, and it is transmitted where
the turn is held; the block "never sends without a turn" (42_fsm_rx.md R182). -/
def sendIfTurn (s : State) : State := if s.work.turn then transmit s else s

end Sys2Proof.Machine
end

