-- ==== Sys2Proof/Machine/Receive.lean ====
section
/-! DEFINITION. Steps 1, 2 and 4 of RX_FRAME and the transaction as a whole
(42_fsm_rx.md R160 to R177, R194). -/

namespace Sys2Proof.Machine

/-- 42_fsm_rx.md R162: `emit RawRx(INVERT(w))` before anything else, `BUF` loaded by DECODE
(10_state.md R21), the transients clear. -/
def rxStart (raw : Frame) (s : State) : State :=
  (s.emit (.rawRx raw)).withWork fun _ => { Transients.idle with buf := raw }

/-- 42_fsm_rx.md R163, step 1: the first frame seen in `FindNextControllerRx` ends the stage; the next
token destination is degraded if its source is not a controller. -/
def rxDiscovery (role : Role) (s : State) : State :=
  if s.S.stage = .findNextControllerRx then
    (if role = .controller then s else s.withS fun S => { S with nextTok := .indoorUnit }).setStage
      (if zonesNegotiated s.cfg s.S.features then .zoneRequestActive else .complete)
  else s

/-- 42_fsm_rx.md R166: feature detection. -/
def detectFeatures (unknownFlags : BitVec 2) (s : State) : State :=
  if s.S.stage = .detectFeatureSupport then
    if unknownFlags = 2 then
      (s.withS fun S => { S with features := s.cfg.defaultFeatures }).setStage .findNextControllerTx
    else s.setStage .featureRequest
  else s

/-- 42_fsm_rx.md R164: the error flag. -/
def noteErrorFlag (e : Bool) (s : State) : State :=
  if e ≠ s.S.lastError then
    (s.withS fun S => { S with lastError := e }).withWork fun w => { w with errChanged := true }
  else s

/-- 42_fsm_rx.md R165: merge, and the deferred `ConfigUpdate` with a copy of `S.cur` taken now. -/
def mergeConfig (common : ConfigCommon) (iu : IUSub) (s : State) : State :=
  let s1 := s.withS fun S => { S with cur := { S.cur with common := common, iu := iu } }
  s1.withWork fun w => { w with pending := some (.configUpdate s1.S.cur) }

/-- 42_fsm_rx.md R164 to R167: (`IndoorUnit`, `Config.IU`), the parts in the order of R167. -/
def onConfigIU (common : ConfigCommon) (iu : IUSub) (s : State) : State :=
  mergeConfig common iu (noteErrorFlag iu.error (detectFeatures iu.unknownFlags s))

/-- 42_fsm_rx.md R176: `err_observed <- 1`, for an Error packet of either role. -/
def observeError (s : State) : State := s.withWork fun w => { w with errObserved := true }

/-- 42_fsm_rx.md R169: (`IndoorUnit`, `Error`). -/
def onErrorIU (code : Byte) (s : State) : State :=
  (observeError s).withWork fun w => { w with pending := some (.error code) }

/-- 42_fsm_rx.md R170: (`IndoorUnit`, `Features`). -/
def onFeaturesIU (f : Features) (s : State) : State :=
  if s.S.stage = .featureRequest then
    (s.withS fun S => { S with features := f }).setStage
      (if zonesNegotiated s.cfg f then .zoneRequestEnabled else .findNextControllerTx)
  else s

/-- 42_fsm_rx.md R171: (`IndoorUnit`, `Function`). -/
def onFunctionIU (b : FunctionBody) (s : State) : State :=
  s.withWork fun w => { w with pending := some (.functionReceived b) }

/-- 42_fsm_rx.md R172: (`IndoorUnit`, `ZoneFunction.IU`), "Zoned variant only". -/
def onZoneFunctionIU (b : ZoneFunctionBody) (s : State) : State :=
  if s.cfg.variant = .zoned ∧ s.S.stage = .zoneRequestEnabled then
    (s.withS fun S => { S with zoneEnabled := b.enabledZones, zoneCommon := b.commonZone }).setStage
      .findNextControllerTx
  else s

/-- 42_fsm_rx.md R174: (`IndoorUnit`, `ZoneConfig.IU`), "Zoned variant only": stored and notified in
every stage, the transition only from `ZoneRequestActive`. -/
def onZoneConfigIU (z : ZoneFields) (s : State) : State :=
  if s.cfg.variant = .zoned then
    let s1 := (s.withS fun S => { S with zcur := z }).withWork fun w =>
      { w with pending := some (.zoneConfigUpdate z) }
    if s1.S.stage = .zoneRequestActive then s1.setStage .complete else s1
  else s

/-- 42_fsm_rx.md R175: (`Controller`, `Config.C`). -/
def onConfigC (addr : Addr) (b : ConfigBody) (s : State) : State :=
  s.withWork fun w => { w with pending := some (.remoteControllerConfig addr b) }

/-- 42_fsm_rx.md R173, R177: no register changes and no notification. -/
def onNothing (s : State) : State := s

/-- 42_fsm_rx.md R195: the dispatch of step 2 on (source role, kind). -/
def dispatch (p : Packet) (s : State) : State :=
  match packetKind s.cfg p, p.body with
  | .configIU, .config b => onConfigIU b.common b.iu s
  | .configC, .config b => onConfigC (p.src.addr.setWidth 4) b s
  | .error, .error code => match p.src.role with
    | .indoorUnit => onErrorIU code s
    | .controller => observeError s
  | .features, .features f => match p.src.role with
    | .indoorUnit => onFeaturesIU f s
    | .controller => onNothing s
  | .function, .function b => match p.src.role with
    | .indoorUnit => onFunctionIU b s
    | .controller => onNothing s
  | .zoneConfigIU, .zoneConfig b => onZoneConfigIU b.zones s
  | .zoneFunctionIU, .zoneFunction b => onZoneFunctionIU b s
  | _, _ => onNothing s

/-- 42_fsm_rx.md R194, step 4: the deferred notification; and the end of the transaction, at which the
transients are gone (10_state.md R20). -/
def rxEnd (s : State) : State :=
  match s.work.pending with
  | none => s.withWork fun _ => Transients.idle
  | some e => (s.emit e).withWork fun _ => Transients.idle

/-- 42_fsm_rx.md R160: the transaction, with step 2 given. -/
def receiveFrame (raw : Frame) (p : Packet) (last : Bool) (step2 : State → State) (s : State) :
    State :=
  rxEnd (busTurn p last (step2 (rxDiscovery p.src.role (rxStart raw s))))

/-- The transaction on a received-frame row: its logical frame is that of its operands. -/
def receiveRow (h : RxHead) (p : Packet) (step2 : State → State) (s : State) : State :=
  receiveFrame (rawOf s.cfg p h.ignored) p h.last step2 s

end Sys2Proof.Machine
end

