-- ==== Sys2Proof/Machine/Frames.lean ====
section
/-! DEFINITION. The received-frame rows (41_codec_frames.md R132 to R143): each is the RX_FRAME
transaction (42_fsm_rx.md R160) on a frame of its kind, with the step 2 that 42_fsm_rx.md R195 gives the
pair (source role, kind); and RX_FRAME itself on any wire frame. None fails and none rejects (R160). -/

namespace Sys2Proof.Machine

/-- `Config.IU` (R132): R164 to R167. -/
def execConfigIU (h : RxHead) (common : ConfigCommon) (iu : IUSub) (s : State) :
    Host.Outcome State Fault Refusal :=
  .next (receiveRow h (h.packet .indoorUnit typeConfig (.config { common := common, iu := iu }))
    (onConfigIU common iu) s)

/-- `Config.C` (R133): R175. -/
def execConfigC (h : RxHead) (common : ConfigCommon) (ctl : CtlSub) (s : State) :
    Host.Outcome State Fault Refusal :=
  .next (receiveRow h (h.packet .controller typeConfig (.config { common := common, ctl := ctl }))
    (onConfigC h.srcAddr { common := common, ctl := ctl }) s)

/-- `Error.IU` (R134): R169, R176. -/
def execErrorIU (h : RxHead) (code : Byte) (s : State) :
    Host.Outcome State Fault Refusal :=
  .next (receiveRow h (h.packet .indoorUnit typeError (.error code))
    (onErrorIU code) s)

/-- `Error.C` (R134): R176, no notification. -/
def execErrorC (h : RxHead) (code : Byte) (s : State) :
    Host.Outcome State Fault Refusal :=
  .next (receiveRow h (h.packet .controller typeError (.error code))
    observeError s)

/-- `Features.IU` (R135): R170. -/
def execFeaturesIU (h : RxHead) (f : Features) (s : State) :
    Host.Outcome State Fault Refusal :=
  .next (receiveRow h (h.packet .indoorUnit typeFeatures (.features f))
    (onFeaturesIU f) s)

/-- `Features.C` (R135): R177. -/
def execFeaturesC (h : RxHead) (f : Features) (s : State) :
    Host.Outcome State Fault Refusal :=
  .next (receiveRow h (h.packet .controller typeFeatures (.features f))
    onNothing s)

/-- `Function.IU` (R136): R171. -/
def execFunctionIU (h : RxHead) (b : FunctionBody) (s : State) :
    Host.Outcome State Fault Refusal :=
  .next (receiveRow h (h.packet .indoorUnit typeFunction (.function b))
    (onFunctionIU b) s)

/-- `Function.C` (R136): R177. -/
def execFunctionC (h : RxHead) (b : FunctionBody) (s : State) :
    Host.Outcome State Fault Refusal :=
  .next (receiveRow h (h.packet .controller typeFunction (.function b))
    onNothing s)

/-- `Status.IU` (R137): R173. -/
def execStatusIU (h : RxHead) (s : State) :
    Host.Outcome State Fault Refusal :=
  .next (receiveRow h (h.packet .indoorUnit typeStatus .status)
    onNothing s)

/-- `Status.C` (R137): R177. -/
def execStatusC (h : RxHead) (s : State) :
    Host.Outcome State Fault Refusal :=
  .next (receiveRow h (h.packet .controller typeStatus .status)
    onNothing s)

/-- `ZoneConfig.IU` (R138): R174. -/
def execZoneConfigIU (h : RxHead) (z : ZoneFields) (s : State) :
    Host.Outcome State Fault Refusal :=
  .next (receiveRow h (h.packet .indoorUnit typeZoneConfig (.zoneConfig { zones := z }))
    (onZoneConfigIU z) s)

/-- `ZoneConfig.C` (R139): R177. -/
def execZoneConfigC (h : RxHead) (z : ZoneFields) (write : Bool) (s : State) :
    Host.Outcome State Fault Refusal :=
  .next (receiveRow h (h.packet .controller typeZoneConfig (.zoneConfig { zones := z, write := write }))
    onNothing s)

/-- `ZoneFunction.IU` (R141): R172. -/
def execZoneFunctionIU (h : RxHead) (b : ZoneFunctionBody) (s : State) :
    Host.Outcome State Fault Refusal :=
  .next (receiveRow h (h.packet .indoorUnit typeZoneFunction (.zoneFunction b))
    (onZoneFunctionIU b) s)

/-- `ZoneFunction.C` (R142): R177. -/
def execZoneFunctionC (h : RxHead) (s : State) :
    Host.Outcome State Fault Refusal :=
  .next (receiveRow h (h.packet .controller typeZoneFunction (.zoneFunction {}))
    onNothing s)

/-- `Unknown7` (R143): R177; the header counts for steps 1 and 3 (30_encoding.md R75). -/
def execUnknown7 (h : RxHead) (role : Role) (s : State) :
    Host.Outcome State Fault Refusal :=
  .next (receiveRow h (h.packet role typeReserved .none)
    onNothing s)

/-- `Unknown5.Legacy` (R143): R177. -/
def execUnknown5Legacy (h : RxHead) (role : Role) (s : State) :
    Host.Outcome State Fault Refusal :=
  .next (receiveRow h (h.packet role typeZoneConfig .none)
    onNothing s)

/-- `Unknown6.Legacy` (R143): R177. -/
def execUnknown6Legacy (h : RxHead) (role : Role) (s : State) :
    Host.Outcome State Fault Refusal :=
  .next (receiveRow h (h.packet role typeZoneFunction .none)
    onNothing s)

/-- 42_fsm_rx.md R160: `RX_FRAME(w, last)` on any wire frame, the kind found by DECODE. -/
def execRxFrame (w : Frame) (last : Bool) (s : State) : Host.Outcome State Fault Refusal :=
  .next (receiveFrame (invertFrame w) (decodeOf s.cfg w) last (dispatch (decodeOf s.cfg w)) s)

end Sys2Proof.Machine
end

