-- ==== Sys2Proof/Machine/Primitives.lean ====
section
/-! DEFINITION. The rows of format primitive (30_encoding.md R105): the codec primitives, DECODE and
ENCODE, and the three pseudo-forms. A primitive is a pure function: "it reads its operands and `CFG`
only, writes no session register, sets no flag and raises nothing" (40_codec_primitives.md). Its result
stands in `work.result` (the model's own, log entry 7), its buffer in `work.buf` (10_state.md R21). -/

namespace Sys2Proof.Machine

/-- A primitive returns a value. -/
def State.returns (s : State) (r : CodecResult) : State := s.withWork fun w => { w with result := r }

/-- BUF is written. -/
def State.withBuf (s : State) (f : Frame) : State := s.withWork fun w => { w with buf := f }

/-- 40_codec_primitives.md R110: `INVERT(f)`. -/
def execInvert (f : Frame) (s : State) : Host.Outcome State Fault Refusal :=
  .next (s.returns (.frame (invertFrame f)))

/-- 40_codec_primitives.md R111: `getField(d, BUF)`; "`BUF` is not changed". -/
def execGetField (d : Descriptor) (s : State) : Host.Outcome State Fault Refusal :=
  .next (s.returns (.byte (getFieldOf d s.work.buf)))

/-- 40_codec_primitives.md R112: `setField(d, BUF, v)`. -/
def execSetField (d : Descriptor) (v : BitVec 16) (s : State) : Host.Outcome State Fault Refusal :=
  .next (s.withBuf (setFieldOf d s.work.buf v))

/-- 40_codec_primitives.md R113: `EXTRACT(b, p)`. -/
def execExtract (b : Byte) (p : Parity) (s : State) : Host.Outcome State Fault Refusal :=
  .next (s.returns (.nibble (extractBits b p)))

/-- 40_codec_primitives.md R114: `INTERLEAVE(v, p)`. -/
def execInterleave (v : Byte) (p : Parity) (s : State) : Host.Outcome State Fault Refusal :=
  .next (s.returns (.byte (interleaveBits v p)))

/-- 40_codec_primitives.md R115: `TEMP_PACK_Z(t)`. -/
def execTempPackZ (t : Temp) (s : State) : Host.Outcome State Fault Refusal :=
  .next (s.returns (.packed (tempPackZoned t)))

/-- 40_codec_primitives.md R115: `TEMP_UNPACK_Z(w)`. -/
def execTempUnpackZ (w : BitVec 7) (s : State) : Host.Outcome State Fault Refusal :=
  .next (s.returns (.temp (tempUnpackZoned w)))

/-- 40_codec_primitives.md R116: `TEMP_PACK_L(t)`. -/
def execTempPackL (t : Temp) (s : State) : Host.Outcome State Fault Refusal :=
  .next (s.returns (.packed (tempPackLegacy t)))

/-- 40_codec_primitives.md R116: `TEMP_UNPACK_L(w)`. -/
def execTempUnpackL (w : BitVec 6) (s : State) : Host.Outcome State Fault Refusal :=
  .next (s.returns (.temp (tempUnpackLegacy w)))

/-- 41_codec_frames.md R130: `DECODE(w)`; it loads BUF with the complement of the wire frame
(10_state.md R21). -/
def execDecode (w : Frame) (s : State) : Host.Outcome State Fault Refusal :=
  .next ((s.withBuf (invertFrame w)).returns (.packet (decodeOf s.cfg w)))

/-- 41_codec_frames.md R131: `ENCODE(p)`; BUF holds the logical frame it inverts. -/
def execEncode (p : Packet) (s : State) : Host.Outcome State Fault Refusal :=
  .next ((s.withBuf (encodeLogicalOf s.cfg p)).returns (.frame (encodeOf s.cfg p)))

/-- 41_codec_frames.md R131: `ENCODE_LOGICAL(p)`, the buffer it returns. -/
def execEncodeLogical (p : Packet) (s : State) : Host.Outcome State Fault Refusal :=
  .next ((s.withBuf (encodeLogicalOf s.cfg p)).returns (.frame (encodeLogicalOf s.cfg p)))

/-- 30_encoding.md R104, 42_fsm_rx.md R183: `Features.REQ`: the reply is built, and sent where the turn is
held (R182). -/
def execFeaturesReq (s : State) : Host.Outcome State Fault Refusal :=
  .next (sendIfTurn (replyFeaturesReq s))

/-- 30_encoding.md R104, 42_fsm_rx.md R185: `ZoneFunction.REQ`: the reply is built, and sent where the turn is
held (R182). The form is "Zoned only", and the spec states no effect for it in the Legacy variant: there
the same packet is built and sent, type code 6, of kind `Unknown`, so without a body (DESIGN CHOICE, log
entry 9; no run reaches it). -/
def execZoneFunctionReq (s : State) : Host.Outcome State Fault Refusal :=
  .next (sendIfTurn (replyZoneFunctionReq s))

/-- 30_encoding.md R104, 42_fsm_rx.md R186: `ZoneConfig.REQ`: the reply is built, and sent where the turn is
held (R182). The form is "Zoned only", and the spec states no effect for it in the Legacy variant: there
the same packet is built and sent, type code 5, of kind `Unknown`, so without a body (DESIGN CHOICE, log
entry 9; no run reaches it). -/
def execZoneConfigReq (s : State) : Host.Outcome State Fault Refusal :=
  .next (sendIfTurn (replyZoneConfigReq s))

end Sys2Proof.Machine
end

