-- ==== Sys2Proof/Machine/UndefinedOps.lean ====
section
/-! DEFINITION. The undefined operation codes 19 to 31 (43_host_commands.md R234): "`reject`, no state
change, no event, whatever `override` and `arg` hold". -/

namespace Sys2Proof.Machine

/-- 43_host_commands.md R234, cause `UndefinedOp` of 60_exceptions.md R251. -/
def undefinedOp (s : State) : State := finishCommand (some .undefinedOp) (fun s => s) s

/-- 43_host_commands.md R234, `op` 19. -/
def execUndefinedOp19 (s : State) : Host.Outcome State Fault Refusal := .next (undefinedOp s)

/-- 43_host_commands.md R234, `op` 20. -/
def execUndefinedOp20 (s : State) : Host.Outcome State Fault Refusal := .next (undefinedOp s)

/-- 43_host_commands.md R234, `op` 21. -/
def execUndefinedOp21 (s : State) : Host.Outcome State Fault Refusal := .next (undefinedOp s)

/-- 43_host_commands.md R234, `op` 22. -/
def execUndefinedOp22 (s : State) : Host.Outcome State Fault Refusal := .next (undefinedOp s)

/-- 43_host_commands.md R234, `op` 23. -/
def execUndefinedOp23 (s : State) : Host.Outcome State Fault Refusal := .next (undefinedOp s)

/-- 43_host_commands.md R234, `op` 24. -/
def execUndefinedOp24 (s : State) : Host.Outcome State Fault Refusal := .next (undefinedOp s)

/-- 43_host_commands.md R234, `op` 25. -/
def execUndefinedOp25 (s : State) : Host.Outcome State Fault Refusal := .next (undefinedOp s)

/-- 43_host_commands.md R234, `op` 26. -/
def execUndefinedOp26 (s : State) : Host.Outcome State Fault Refusal := .next (undefinedOp s)

/-- 43_host_commands.md R234, `op` 27. -/
def execUndefinedOp27 (s : State) : Host.Outcome State Fault Refusal := .next (undefinedOp s)

/-- 43_host_commands.md R234, `op` 28. -/
def execUndefinedOp28 (s : State) : Host.Outcome State Fault Refusal := .next (undefinedOp s)

/-- 43_host_commands.md R234, `op` 29. -/
def execUndefinedOp29 (s : State) : Host.Outcome State Fault Refusal := .next (undefinedOp s)

/-- 43_host_commands.md R234, `op` 30. -/
def execUndefinedOp30 (s : State) : Host.Outcome State Fault Refusal := .next (undefinedOp s)

/-- 43_host_commands.md R234, `op` 31. -/
def execUndefinedOp31 (s : State) : Host.Outcome State Fault Refusal := .next (undefinedOp s)

end Sys2Proof.Machine
end

