-- ==== Sys2Proof/Machine/ZoneCommands.lean ====
section
/-! DEFINITION. The zone commands (43_host_commands.md R229 to R231), Zoned variant. -/

namespace Sys2Proof.Machine

/-- 43_host_commands.md R229: the new mask of active zones. -/
def newActiveZones (s : State) (z : BitVec 4) (v : Bool) : ZoneMask :=
  updateZone (zoneBase s .activeZones ZoneFields.activeZones) z v

/-- The checks of `SET_ZONE` (R229), the last active zone among them. -/
def setZoneChecks (o : Bool) (z : BitVec 4) (v : Bool) (s : State) : List (Bool × RejectCause) :=
  zoneChecks s .setZone o z ++
    [(!v && decide (newActiveZones s z v = 0) && !s.S.zoneCommon, .lastActiveZone)]

/-- 43_host_commands.md R229: `SET_ZONE`. -/
def execSetZone (o : Bool) (z : BitVec 4) (v : Bool) (s : State) :
    Host.Outcome State Fault Refusal :=
  .next (finishCommand (firstCause (setZoneChecks o z v s))
    (fun s => s.withS fun S => clearGroupsActive
      { S with
        zchg := { S.zchg with activeZones := newActiveZones s z v }
        zdirty := markZDirty S.zdirty .activeZones }) s)

/-- 43_host_commands.md R230: `SET_ZONE_GROUP_DAY`: "a group may be empty". -/
def execSetZoneGroupDay (o : Bool) (z : BitVec 4) (v : Bool) (s : State) :
    Host.Outcome State Fault Refusal :=
  .next (finishCommand (firstCause (zoneChecks s .setZoneGroupDay o z))
    (fun s => s.withS fun S => clearGroupsActive
      { S with
        zchg := { S.zchg with
          zoneGroupDay := updateZone (zoneBase s .zoneGroupDay ZoneFields.zoneGroupDay) z v }
        zdirty := markZDirty S.zdirty .zoneGroupDay }) s)

/-- 43_host_commands.md R231: `SET_ZONE_GROUP_NIGHT`. -/
def execSetZoneGroupNight (o : Bool) (z : BitVec 4) (v : Bool) (s : State) :
    Host.Outcome State Fault Refusal :=
  .next (finishCommand (firstCause (zoneChecks s .setZoneGroupNight o z))
    (fun s => s.withS fun S => clearGroupsActive
      { S with
        zchg := { S.zchg with
          zoneGroupNight := updateZone (zoneBase s .zoneGroupNight ZoneFields.zoneGroupNight) z v }
        zdirty := markZDirty S.zdirty .zoneGroupNight }) s)

end Sys2Proof.Machine
end

