-- ==== Sys2Proof/Machine/Dispatch.lean ====
section
/-! DEFINITION. The meaning of every row of spec/opcode_table.json, one arm each. -/

namespace Sys2Proof.Machine

def exec (i : Instr) (s : State) : Host.Outcome State Fault Refusal :=
  match i with
  -- frame kinds
  | .configIU h common iu => Sys2Proof.Machine.execConfigIU h common iu s
  | .configC h common ctl => Sys2Proof.Machine.execConfigC h common ctl s
  | .errorIU h code => Sys2Proof.Machine.execErrorIU h code s
  | .errorC h code => Sys2Proof.Machine.execErrorC h code s
  | .featuresIU h f => Sys2Proof.Machine.execFeaturesIU h f s
  | .featuresC h f => Sys2Proof.Machine.execFeaturesC h f s
  | .functionIU h b => Sys2Proof.Machine.execFunctionIU h b s
  | .functionC h b => Sys2Proof.Machine.execFunctionC h b s
  | .statusIU h => Sys2Proof.Machine.execStatusIU h s
  | .statusC h => Sys2Proof.Machine.execStatusC h s
  | .zoneConfigIU h z => Sys2Proof.Machine.execZoneConfigIU h z s
  | .zoneConfigC h z write => Sys2Proof.Machine.execZoneConfigC h z write s
  | .zoneFunctionIU h b => Sys2Proof.Machine.execZoneFunctionIU h b s
  | .zoneFunctionC h => Sys2Proof.Machine.execZoneFunctionC h s
  | .unknown7 h role => Sys2Proof.Machine.execUnknown7 h role s
  | .unknown5Legacy h role => Sys2Proof.Machine.execUnknown5Legacy h role s
  | .unknown6Legacy h role => Sys2Proof.Machine.execUnknown6Legacy h role s
  -- host commands
  | .setEnabled o v => Sys2Proof.Machine.execSetEnabled o v s
  | .setEconomy o v => Sys2Proof.Machine.execSetEconomy o v s
  | .setTestRun o v => Sys2Proof.Machine.execSetTestRun o v s
  | .setSetpoint o d => Sys2Proof.Machine.execSetSetpoint o d s
  | .setMode o m => Sys2Proof.Machine.execSetMode o m s
  | .setFanSpeed o sp => Sys2Proof.Machine.execSetFanSpeed o sp s
  | .setVerticalSwing o v => Sys2Proof.Machine.execSetVerticalSwing o v s
  | .setHorizontalSwing o v => Sys2Proof.Machine.execSetHorizontalSwing o v s
  | .advanceVerticalLouver o => Sys2Proof.Machine.execAdvanceVerticalLouver o s
  | .advanceHorizontalLouver o => Sys2Proof.Machine.execAdvanceHorizontalLouver o s
  | .useSensor o v => Sys2Proof.Machine.execUseSensor o v s
  | .resetFilter o => Sys2Proof.Machine.execResetFilter o s
  | .maintenance o => Sys2Proof.Machine.execMaintenance o s
  | .setZone o z v => Sys2Proof.Machine.execSetZone o z v s
  | .setZoneGroupDay o z v => Sys2Proof.Machine.execSetZoneGroupDay o z v s
  | .setZoneGroupNight o z v => Sys2Proof.Machine.execSetZoneGroupNight o z v s
  | .setCurrentTemperature o t => Sys2Proof.Machine.execSetCurrentTemperature o t s
  | .queueFunction o b => Sys2Proof.Machine.execQueueFunction o b s
  | .reinit o => Sys2Proof.Machine.execReinit o s
  -- undefined operation codes
  | .undefinedOp19 => Sys2Proof.Machine.execUndefinedOp19 s
  | .undefinedOp20 => Sys2Proof.Machine.execUndefinedOp20 s
  | .undefinedOp21 => Sys2Proof.Machine.execUndefinedOp21 s
  | .undefinedOp22 => Sys2Proof.Machine.execUndefinedOp22 s
  | .undefinedOp23 => Sys2Proof.Machine.execUndefinedOp23 s
  | .undefinedOp24 => Sys2Proof.Machine.execUndefinedOp24 s
  | .undefinedOp25 => Sys2Proof.Machine.execUndefinedOp25 s
  | .undefinedOp26 => Sys2Proof.Machine.execUndefinedOp26 s
  | .undefinedOp27 => Sys2Proof.Machine.execUndefinedOp27 s
  | .undefinedOp28 => Sys2Proof.Machine.execUndefinedOp28 s
  | .undefinedOp29 => Sys2Proof.Machine.execUndefinedOp29 s
  | .undefinedOp30 => Sys2Proof.Machine.execUndefinedOp30 s
  | .undefinedOp31 => Sys2Proof.Machine.execUndefinedOp31 s
  -- primitives and pseudo-forms
  | .invert f => Sys2Proof.Machine.execInvert f s
  | .getField d => Sys2Proof.Machine.execGetField d s
  | .setField d v => Sys2Proof.Machine.execSetField d v s
  | .extract b p => Sys2Proof.Machine.execExtract b p s
  | .interleave v p => Sys2Proof.Machine.execInterleave v p s
  | .tempPackZ t => Sys2Proof.Machine.execTempPackZ t s
  | .tempUnpackZ w => Sys2Proof.Machine.execTempUnpackZ w s
  | .tempPackL t => Sys2Proof.Machine.execTempPackL t s
  | .tempUnpackL w => Sys2Proof.Machine.execTempUnpackL w s
  | .decode w => Sys2Proof.Machine.execDecode w s
  | .encode p => Sys2Proof.Machine.execEncode p s
  | .encodeLogical p => Sys2Proof.Machine.execEncodeLogical p s
  | .rxFrame w last => Sys2Proof.Machine.execRxFrame w last s
  | .featuresReq => Sys2Proof.Machine.execFeaturesReq s
  | .zoneFunctionReq => Sys2Proof.Machine.execZoneFunctionReq s
  | .zoneConfigReq => Sys2Proof.Machine.execZoneConfigReq s

end Sys2Proof.Machine
end

