-- ==== Sys2Proof/Machine/Step.lean ====
section
/-! DEFINITION. One step: one transaction (20_memory.md R60), the reset, the frame or the command that
stands on a port. -/

namespace Sys2Proof.Machine

/-- The instruction that the next frame or command presented stands for, and the state with it taken
off its port. "when both present an operation at once RX_FRAME goes first" (20_memory.md R60); frames
"strictly in arrival order" (R61). -/
def fetch (s : State) : Option (Instr × State) :=
  match s.ports.rx with
  | item :: rest =>
    some (decodeFrame s.cfg (Frame.ofPort item.data) item.last,
      { s with ports := { s.ports with rx := rest } })
  | [] =>
    match s.ports.cmd with
    | w :: rest => some (decodeCmd w, { s with ports := { s.ports with cmd := rest } })
    | [] => none

/-- The reset transaction where the sampled configuration is well formed; "an ill-formed `CFG` is
refused" (70_reset_and_hazards.md R291). -/
def stepReset (c : Cfg) (s : State) : Host.Outcome State Fault Refusal :=
  if c.wellFormed then .next (resetTransaction c s) else .refused .illFormedConfig

/-- One step. A reset request goes first (DESIGN CHOICE, log entry 4), then a frame, then a command.
With nothing presented the block "never steps on its own" (00_scope.md R12) and "holds its state"
(60_exceptions.md R286). -/
def step (s : State) : Host.Outcome State Fault Refusal :=
  match s.ports.rst with
  | some c => stepReset c s
  | none =>
    match fetch s with
    | some (i, s') => exec i s'
    | none => .next s

/-- `s` with the instruction of a table word presented so that the next step runs it: a frame at the
head of the RX port, or a command at the head of the CMD port with no frame before it; no reset request
(log entry 3). -/
def State.withFetchWord (s : State) (nbits w : Nat) : State :=
  if nbits = 64 then
    { s with ports := { s.ports with
        rst := none
        rx := ⟨(tableFrame w).toPort, false⟩ :: s.ports.rx } }
  else if nbits = 32 then
    { s with ports := { s.ports with
        rst := none
        rx := []
        cmd := BitVec.ofNat 32 w :: s.ports.cmd } }
  else s

end Sys2Proof.Machine
end

