-- ==== Sys2Proof/Safety.lean ====
section
/-! DEFINITION. The terms claims use: the stage transitions of 10_state.md R22, what a trace of outputs
holds, the parts of one RX_FRAME transaction as the rules of 42_fsm_rx.md write them, the outcome of a
host command as 43_host_commands.md writes it, and the invariant of the machine. -/

namespace Sys2Proof.Machine

/-! The trace. -/

/-- The stages of the `StageChanged` events of a trace, in order. -/
def stageEvents (outs : List Output) : List Stage :=
  outs.filterMap fun
    | .evt (.stageChanged st _) => some st
    | _ => none

/-- The wire frames of a trace, in order. -/
def framesSent (outs : List Output) : List Frame :=
  outs.filterMap fun
    | .tx d => some (Frame.ofPort d)
    | _ => none

/-- An output that is an event. -/
def Output.isEvent : Output → Bool
  | .evt _ => true
  | .tx _ => false
  | .cmdAccept _ => false

/-- A `StageChanged` event. -/
def Output.isStageChanged : Output → Bool
  | .evt (.stageChanged _ _) => true
  | _ => false

/-- The events that are deferred: the rows "last (deferred)" of 60_exceptions.md R255. -/
def Output.isDeferred : Output → Bool
  | .evt (.configUpdate _) => true
  | .evt (.error _) => true
  | .evt (.functionReceived _) => true
  | .evt (.zoneConfigUpdate _) => true
  | .evt (.remoteControllerConfig _ _) => true
  | _ => false

/-- 10_state.md R22: "The allowed transitions are exactly", those by REINIT aside. -/
def stageMayBecome : Stage → Stage → Bool
  | .detectFeatureSupport, .featureRequest => true
  | .detectFeatureSupport, .findNextControllerTx => true
  | .featureRequest, .zoneRequestEnabled => true
  | .featureRequest, .findNextControllerTx => true
  | .zoneRequestEnabled, .findNextControllerTx => true
  | .findNextControllerTx, .findNextControllerRx => true
  | .findNextControllerRx, .zoneRequestActive => true
  | .findNextControllerRx, .complete => true
  | .zoneRequestActive, .complete => true
  | _, _ => false

/-- From one stage to another through the given stages, each by an allowed transition. -/
def stagePath : Stage → List Stage → Stage → Prop
  | a, [], b => a = b
  | a, x :: xs, b => stageMayBecome a x = true ∧ stagePath x xs b

/-! The parts of RX_FRAME. -/

/-- 42_fsm_rx.md R161: the stage register written and `StageChanged` put on the trace. -/
def stageSet (st : Stage) (s : State) : State :=
  { s with
    S := { s.S with stage := st }
    ports := { s.ports with out := s.ports.out ++ [.evt (.stageChanged st s.S.features)] } }

/-- 42_fsm_rx.md R162: `RawRx` put on the trace, the transients at their start values. -/
def afterStart (raw : Frame) (s : State) : State :=
  { s with
    work := { Transients.idle with buf := raw }
    ports := { s.ports with out := s.ports.out ++ [.evt (.rawRx raw)] } }

/-- 42_fsm_rx.md R162 and R163: the state after step 1 on a frame from a source of the given role. -/
def afterStep1 (raw : Frame) (role : Role) (s : State) : State :=
  if s.S.stage = .findNextControllerRx then
    stageSet (if s.cfg.variant = .zoned ∧ s.S.features.zones = true then .zoneRequestActive else .complete)
      { afterStart raw s with
        S := { s.S with nextTok := if role = .controller then s.S.nextTok else .indoorUnit } }
  else afterStart raw s

/-- The deferred notification is set (10_state.md R34). -/
def withPending (e : Event) (s : State) : State := { s with work := { s.work with pending := some e } }

/-- Steps 3 and 4 of RX_FRAME on the state after step 2, for a frame with the given token destination
and `last`. What it does is the subject of the claims on the bus turn. -/
def closeFrame (tok : Address) (last : Bool) (b : State) : State :=
  rxEnd (busTurn ⟨{}, tok, 0, .none⟩ last b)

/-- The token destination of a received row. -/
def tokenOf (h : RxHead) : Address := ⟨h.tokRole, h.tokAddr.setWidth 8⟩

/-- 42_fsm_rx.md R178: the token condition. -/
def ownsTurn (c : Cfg) (tok : Address) (last : Bool) : Prop :=
  last = true ∧ tok.role = .controller ∧ tok.addr = c.ctrlAddr.setWidth 8

/-- 42_fsm_rx.md R180: the state in which the reply is chosen, from the state after step 2. -/
def atReply (b : State) : State :=
  if b.S.stage = .findNextControllerTx then
    stageSet .findNextControllerRx { b with S := { b.S with nextTok := .controller } }
  else b

/-- 42_fsm_rx.md R181, orders 1 to 3: the stages that have a request of their own. -/
def requestStage (st : Stage) : Prop :=
  st = .featureRequest ∨ st = .zoneRequestEnabled ∨ st = .zoneRequestActive

/-- 42_fsm_rx.md R181, order 4. -/
def errorReplyDue (a : State) : Prop :=
  (a.work.errChanged = true ∧ a.cfg.ctrlAddr = 0) ∨ (a.work.errObserved = true ∧ a.cfg.ctrlAddr ≠ 0)

/-- 42_fsm_rx.md R179: a packet under the reply header. -/
def replyPacket (a : State) (code : BitVec 3) (body : Body) : Packet where
  src := ⟨.controller, a.cfg.ctrlAddr.setWidth 8⟩
  tok := if a.S.nextTok = .controller then ⟨.controller, a.cfg.ctrlAddr.setWidth 8 + 1⟩
    else ⟨.indoorUnit, a.cfg.iuTokenAddr.setWidth 8⟩
  typeCode := code
  body := body

/-- 42_fsm_rx.md R192: what the transmission of a reply puts on the trace. -/
def sent (c : Cfg) (r : Packet) : List Output :=
  [.tx (encodeOf c r).toPort, .evt (.rawTx (encodeLogicalOf c r))]

/-- 42_fsm_rx.md R194: what step 4 puts on the trace. -/
def notified (w : Transients) : List Output :=
  match w.pending with
  | none => []
  | some e => [.evt e]

/-- The end of a transaction that transmits nothing. -/
def afterNoTurn (b : State) : State :=
  { b with work := Transients.idle, ports := { b.ports with out := b.ports.out ++ notified b.work } }

/-- The end of a transaction that transmits `r` and leaves the session registers `S`. -/
def afterReply (a : State) (r : Packet) (S : Session) : State :=
  { a with
    S := S
    work := Transients.idle
    ports := { a.ports with out := a.ports.out ++ sent a.cfg r ++ notified a.work } }

/-- The state after step 1 of a received-frame row (42_fsm_rx.md R162, R163). -/
def step1Of (i : Instr) (s : State) : State :=
  match i.received with
  | some (h, p) => afterStep1 (rawOf s.cfg p h.ignored) p.src.role s
  | none => s

/-- A received-frame row completes: it answers the next state that steps 3 and 4 make of `b`, the state
after its step 2. -/
def closesFrom (i : Instr) (s b : State) : Prop :=
  ∃ h p, i.received = some (h, p) ∧ exec i s = .next (closeFrame (tokenOf h) h.last b)

/-! The primitives. -/

/-- A primitive returned `r`, and nothing else changed. -/
def withResult (r : CodecResult) (s : State) : State := { s with work := { s.work with result := r } }

/-- The buffer is `f`, and nothing else changed. -/
def withBuffer (f : Frame) (s : State) : State := { s with work := { s.work with buf := f } }

/-- 40_codec_primitives.md R113: the number of a parity, 0 even, 1 odd. -/
def parityNumber : Parity → Nat
  | .even => 0
  | .odd => 1

/-- 30_encoding.md R101: the bits of `arg` an operation names. -/
def namedArg (op : BitVec 5) : BitVec 24 :=
  match op.toNat with
  | 0 => 0x000001
  | 1 => 0x000001
  | 2 => 0x000001
  | 3 => 0x0000FF
  | 4 => 0x000007
  | 5 => 0x000007
  | 6 => 0x000001
  | 7 => 0x000001
  | 10 => 0x000001
  | 13 => 0x00010F
  | 14 => 0x00010F
  | 15 => 0x00010F
  | 16 => 0x00FFFF
  | 17 => 0x0FFFFF
  | _ => 0x000000

/-! The kinds and their fields, as the tables of the spec write them. -/

/-- 30_encoding.md R74: the kind table; `Unknown` is its "otherwise" (R75). -/
def isKind (v : Variant) (code : BitVec 3) (role : Role) : Kind → Prop
  | .configIU => code = 0 ∧ role = .indoorUnit
  | .configC => code = 0 ∧ role = .controller
  | .error => code = 1
  | .features => code = 2
  | .function => code = 3
  | .status => code = 4
  | .zoneConfigIU => code = 5 ∧ v = .zoned ∧ role = .indoorUnit
  | .zoneConfigC => code = 5 ∧ v = .zoned ∧ role = .controller
  | .zoneFunctionIU => code = 6 ∧ v = .zoned ∧ role = .indoorUnit
  | .zoneFunctionC => code = 6 ∧ v = .zoned ∧ role = .controller
  | .unknown => code = 7 ∨ v = .legacy ∧ (code = 5 ∨ code = 6)

/-- `getField(LAYOUT[k].f, BUF)` (30_encoding.md R76, 40_codec_primitives.md R111). -/
def fieldAt (c : Cfg) (k : Kind) (buf : Frame) (f : FieldName) : Byte :=
  getFieldOf (c.layout.get c.variant k f) buf

/-- A 1-bit field holds a Boolean. -/
def holdsFlag (g : FieldName → Byte) (f : FieldName) (b : Bool) : Prop := (g f).getLsbD 0 = b

/-- 41_codec_frames.md R132, R133: the fields that hold `ConfigCommon`. -/
def holdsCommon (g : FieldName → Byte) (m : ConfigCommon) : Prop :=
  holdsFlag g .enabled m.enabled ∧ holdsFlag g .economy m.economy ∧
    (g .setpoint).setWidth 7 = m.setpoint ∧ holdsFlag g .testRun m.testRun ∧
    (g .mode).setWidth 3 = m.mode ∧ (g .fanSpeed).setWidth 3 = m.fanSpeed ∧
    holdsFlag g .swingVertical m.swingVertical ∧ holdsFlag g .swingHorizontal m.swingHorizontal

/-- 41_codec_frames.md R132: the fields that hold `IUSub`. -/
def holdsIU (g : FieldName → Byte) (u : IUSub) : Prop :=
  holdsFlag g .standbyMode u.standbyMode ∧ holdsFlag g .errorFlag u.error ∧
    holdsFlag g .lockAll u.lockAll ∧ holdsFlag g .lockEnabled u.lockEnabled ∧
    holdsFlag g .lockMode u.lockMode ∧ holdsFlag g .lockSetpoint u.lockSetpoint ∧
    holdsFlag g .lockFilterReset u.lockFilterReset ∧
    holdsFlag g .filterTimerExpired u.filterTimerExpired ∧
    holdsFlag g .seenPrimaryController u.seenPrimaryController ∧
    holdsFlag g .seenSecondaryController u.seenSecondaryController ∧
    (g .unknownFlags).setWidth 2 = u.unknownFlags

/-- 41_codec_frames.md R133: the fields that hold `CtlSub`, `Temperature` aside, which is converted. -/
def holdsCtl (g : FieldName → Byte) (k : CtlSub) : Prop :=
  holdsFlag g .write k.write ∧ holdsFlag g .useControllerSensor k.useControllerSensor ∧
    holdsFlag g .advanceVerticalLouver k.advanceVerticalLouver ∧
    holdsFlag g .advanceHorizontalLouver k.advanceHorizontalLouver ∧
    holdsFlag g .resetFilterTimer k.resetFilterTimer ∧ holdsFlag g .maintenance k.maintenance

/-- 41_codec_frames.md R135: the fields that hold the 16 capability bits both variants have. -/
def holdsFeatures (g : FieldName → Byte) (t : Features) : Prop :=
  holdsFlag g .modeAuto t.modeAuto ∧ holdsFlag g .modeHeat t.modeHeat ∧
    holdsFlag g .modeFan t.modeFan ∧ holdsFlag g .modeDry t.modeDry ∧
    holdsFlag g .modeCool t.modeCool ∧ holdsFlag g .fanQuiet t.fanQuiet ∧
    holdsFlag g .fanLow t.fanLow ∧ holdsFlag g .fanMedium t.fanMedium ∧
    holdsFlag g .fanHigh t.fanHigh ∧ holdsFlag g .fanAuto t.fanAuto ∧
    holdsFlag g .filterTimer t.filterTimer ∧ holdsFlag g .sensorSwitching t.sensorSwitching ∧
    holdsFlag g .featMaintenance t.maintenance ∧ holdsFlag g .economyMode t.economyMode ∧
    holdsFlag g .horizontalLouvers t.horizontalLouvers ∧
    holdsFlag g .verticalLouvers t.verticalLouvers

/-- 41_codec_frames.md R136: the fields that hold `FunctionBody`. -/
def holdsFunction (g : FieldName → Byte) (q : FunctionBody) : Prop :=
  g .id = q.id ∧ g .value = q.value ∧ (g .unit).setWidth 4 = q.unit

/-- 41_codec_frames.md R138, R140: the fields that hold the zone record, the two group map bytes bit for
bit. -/
def holdsZones (g : FieldName → Byte) (z : ZoneFields) : Prop :=
  g .activeZones = z.activeZones ∧
    (∀ i, i < 4 →
      (g .groupMapLo).getLsbD (2 * i) = z.zoneGroupDay.getLsbD i ∧
      (g .groupMapLo).getLsbD (2 * i + 1) = z.zoneGroupNight.getLsbD i ∧
      (g .groupMapHi).getLsbD (2 * i) = z.zoneGroupDay.getLsbD (i + 4) ∧
      (g .groupMapHi).getLsbD (2 * i + 1) = z.zoneGroupNight.getLsbD (i + 4)) ∧
    holdsFlag g .dayGroupActive z.dayGroupActive ∧ holdsFlag g .nightGroupActive z.nightGroupActive

/-- 41_codec_frames.md R132 to R143, decode: the body that the fields of a kind give. -/
def readsAs (v : Variant) (g : FieldName → Byte) (b : Body) : Kind → Prop
  | .configIU => ∃ m u, b = .config ⟨m, u, {}⟩ ∧ holdsCommon g m ∧ holdsIU g u
  | .configC => ∃ m k, b = .config ⟨m, {}, k⟩ ∧ holdsCommon g m ∧ holdsCtl g k ∧
      k.temperature.toNat = match v with
        | .zoned => (g .temperature).toNat % 128 * 128
        | .legacy => (g .temperature).toNat % 64 * 256
  | .error => b = .error (g .code)
  | .features => ∃ t, b = .features t ∧ holdsFeatures g t ∧
      t.zones = match v with
        | .zoned => (g .zones).getLsbD 0
        | .legacy => false
  | .function => ∃ q, b = .function q ∧ holdsFunction g q
  | .status => b = .status
  | .zoneConfigIU => ∃ z, b = .zoneConfig ⟨z, false⟩ ∧ holdsZones g z
  | .zoneConfigC => ∃ z w, b = .zoneConfig ⟨z, w⟩ ∧ holdsZones g z ∧ holdsFlag g .write w
  | .zoneFunctionIU => ∃ w, b = .zoneFunction ⟨g .enabledZones, w⟩ ∧ holdsFlag g .commonZone w
  | .zoneFunctionC => b = .zoneFunction {}
  | .unknown => b = .none

/-- 41_codec_frames.md R132 to R143, encode: the fields of a kind hold a body of its shape. Of a body of
another shape nothing is said here (log entry 23). -/
def writtenAs (v : Variant) (g : FieldName → Byte) : Kind → Body → Prop
  | .configIU, .config b => holdsCommon g b.common ∧ holdsIU g b.iu
  | .configC, .config b => holdsCommon g b.common ∧ holdsCtl g b.ctl ∧
      (g .temperature).toNat = match v with
        | .zoned => (b.ctl.temperature.toNat + 64) / 128 % 128
        | .legacy => (b.ctl.temperature.toNat + 128) / 256 % 64
  | .error, .error code => g .code = code
  | .features, .features t => holdsFeatures g t ∧ (v = .zoned → holdsFlag g .zones t.zones)
  | .function, .function q => holdsFunction g q
  | .zoneConfigIU, .zoneConfig b => holdsZones g b.zones
  | .zoneConfigC, .zoneConfig b => holdsZones g b.zones ∧ holdsFlag g .write b.write
  | .zoneFunctionIU, .zoneFunction b =>
      g .enabledZones = b.enabledZones ∧ holdsFlag g .commonZone b.commonZone
  | _, _ => True

/-! Host commands. -/

/-- 43_host_commands.md R210: the one answer of a command, the state otherwise as given. -/
def answered (b : Bool) (s : State) : State :=
  { s with ports := { s.ports with out := s.ports.out ++ [.cmdAccept b] } }

/-- 43_host_commands.md R212: the lock check. -/
def lockedOut (s : State) (cmd : LockCmd) (o : Bool) : Prop :=
  o = false ∧ ∃ f, (cmd, f) ∈ s.cfg.lockMap ∧ lockFlag s.S.cur.iu f = true

/-- 43_host_commands.md R212: with the default `CFG.LOCK_MAP`, the flags that refuse a command. -/
def lockedByDefault (s : State) (cmd : LockCmd) (o : Bool) (flags : List LockFlag) : Prop :=
  s.cfg.lockMap = lockMapRef →
    (lockedOut s cmd o ↔ o = false ∧ ∃ f, f ∈ flags ∧ lockFlag s.S.cur.iu f = true)

/-- 30_encoding.md R100, R101: every word with an operation code is an instruction, its operands by the
bits of the word. -/
def wordsOf (op : BitVec 5) (i : BitVec 32 → Instr) : Prop :=
  ∀ w : BitVec 32, w.extractLsb' 24 5 = op → decodeCmd w = i w

/-- 43_host_commands.md R211: the pending value written and the dirty bit of index `k` set. -/
def pended (k : Nat) (g : Chg → Chg) (s : State) : State :=
  { s with S := { s.S with chg := g s.S.chg, dirty := s.S.dirty ||| 1#12 <<< k } }

/-- A command that is accepted with an effect exactly where `ok` holds, and else rejected. -/
def acceptsIff (i : Instr) (ok : Prop) (s t : State) : Prop :=
  (ok → exec i s = .next (answered true t)) ∧ (¬ok → exec i s = .next (answered false s))

/-- 43_host_commands.md R229 to R231: the checks every zone command makes. -/
def zoneAllowed (s : State) (cmd : LockCmd) (o : Bool) (z : BitVec 4) : Prop :=
  s.cfg.variant = .zoned ∧ s.S.features.zones = true ∧ ¬lockedOut s cmd o ∧
    1 ≤ z.toNat ∧ z.toNat ≤ 8 ∧ s.S.zoneEnabled.getLsbD (z.toNat - 1) = true

/-- 43_host_commands.md R229: `base | (1 << (z-1))` or `base & ~(1 << (z-1))`. -/
def zonePut (base : ZoneMask) (z : BitVec 4) (v : Bool) : ZoneMask :=
  if v = true then base ||| 1#8 <<< (z.toNat - 1) else base &&& ~~~(1#8 <<< (z.toNat - 1))

/-- 43_host_commands.md R229 to R231: a zone field pended with its dirty bit, both group-active flags
pended as 0 with theirs. -/
def zonePended (k : Nat) (g : ZoneFields → ZoneFields) (s : State) : State :=
  { s with S := { s.S with
      zchg := { g s.S.zchg with dayGroupActive := false, nightGroupActive := false }
      zdirty := s.S.zdirty ||| 1#5 <<< k ||| 8#5 ||| 16#5 } }

/-! The invariant. -/

/-- What holds of the session registers of every block between transactions. -/
structure SessionInv (c : Cfg) (S : Session) : Prop where
  /-- 10_state.md R32: the capacity of the queue. -/
  queue : S.funcq.length ≤ c.funcQueueDepth
  /-- 43_host_commands.md R228: the temperature is clamped. -/
  temperature : S.cur.ctl.temperature.toNat ≤ 15360
  /-- 43_host_commands.md R217 to R219: only validated values wait to be sent. -/
  setpoint : isDirty S.dirty .setpoint = true →
    16 ≤ S.chg.common.setpoint.toNat ∧ S.chg.common.setpoint.toNat ≤ 30
  mode : isDirty S.dirty .mode = true →
    1 ≤ S.chg.common.mode.toNat ∧ S.chg.common.mode.toNat ≤ 5
  fanSpeed : isDirty S.dirty .fanSpeed = true → S.chg.common.fanSpeed.toNat ≤ 4
  /-- 43_host_commands.md R229 to R231: a pending zone change has both group-active flags pending. -/
  zoneGroups : S.zdirty ≠ 0 →
    isZDirty S.zdirty .dayGroupActive = true ∧ isZDirty S.zdirty .nightGroupActive = true
  zoneFlags : S.zchg.dayGroupActive = false ∧ S.zchg.nightGroupActive = false
  /-- 43_host_commands.md R213: no features before negotiation. -/
  unknownFeatures : S.stage = .detectFeatureSupport ∨ S.stage = .featureRequest → S.features = {}
  /-- 42_fsm_rx.md R163, R170: a zone stage is held only where zones were negotiated. -/
  zoneStage : S.stage = .zoneRequestEnabled ∨ S.stage = .zoneRequestActive →
    c.variant = .zoned ∧ S.features.zones = true
  /-- 42_fsm_rx.md R163, R180: before discovery the token goes to the indoor unit. -/
  token : S.nextTok = .controller →
    S.stage = .findNextControllerRx ∨ S.stage = .zoneRequestActive ∨ S.stage = .complete
  /-- 10_state.md R33: the last-seen error flag. -/
  lastError : S.lastError = S.cur.iu.error
  /-- 10_state.md R29, R22: in the Legacy variant the zone registers stay at their reset values. -/
  legacy : c.variant = .legacy →
    S.features.zones = false ∧ S.zcur = {} ∧ S.zchg = {} ∧ S.zdirty = 0 ∧ S.zoneEnabled = 0 ∧
      S.zoneCommon = false

/-- The invariant of the machine: a well-formed configuration (70_reset_and_hazards.md R291), no
transient (10_state.md R20), and the session registers as above. -/
structure Inv (s : State) : Prop where
  config : s.cfg.wellFormed = true
  transients : s.work = Transients.idle
  session : SessionInv s.cfg s.S

end Sys2Proof.Machine
end

