-- ==== Sys2Proof/Certificates/Slice0/Obligations.lean ====
section
/-! DEFINITION. The statements for the provers. Each docstring names the rule of spec/ it formalises. -/

section

open Sys2Proof Sys2Proof.Machine

/-! Encodings. -/

/-- 41_codec_frames.md R145: `DECODE(ENCODE(p)) = p` for every well-formed `CFG` and every
canonical packet. The spec derives it from R130 and R131. -/
def Obligations.DecodeOfEncode : Prop :=
  ∀ (s : State) (p : Packet), s.cfg.wellFormed = true → p.canonical s.cfg = true →
    ∃ f w, exec (.encode p) s = .next (withResult (.frame w) (withBuffer f s)) ∧
      ∀ t, t.cfg = s.cfg →
        exec (.decode w) t = .next (withResult (.packet p) (withBuffer (invertFrame w) t))

/-- 41_codec_frames.md R146: what `ENCODE(DECODE(w))` is, bit for bit, and that it is stable. The
spec derives it from R130 and R131. -/
def Obligations.EncodeOfDecode : Prop :=
  ∀ (c : Cfg) (w : Frame), c.wellFormed = true →
    let p := decodeOf c w
    invertFrame (encodeOf c p) =
        (((invertFrame w).and (coveredBits c (packetKind c p))).or { b1 := 0x80 }).or
          (c.fixupOf p.typeCode p.src.role) ∧
      encodeOf c (decodeOf c (encodeOf c p)) = encodeOf c p

/-- Decode and encode agree on every well-formed received-frame row, with every operand at every
value. -/
def Obligations.FrameRowsRoundTrip : Prop :=
  ∀ (c : Cfg) (i : Instr) (h : RxHead) (p : Packet), c.wellFormed = true →
    i.received = some (h, p) → i.wellFormed c = true →
      ∃ w, encode c i = some (.rx w h.last) ∧ decodeFrame c w h.last = i ∧
        decodeBytes c w.bytes h.last = .ok i

/-- 30_encoding.md R98: every wire frame decodes, to a well-formed row, and no bit of it is lost. -/
def Obligations.EveryFrameDecodes : Prop :=
  ∀ (c : Cfg) (w : Frame) (last : Bool), c.wellFormed = true →
    (decodeFrame c w last).wellFormed c = true ∧
      encode c (decodeFrame c w last) = some (.rx w last)

/-- 30_encoding.md R101: decode and encode agree on every command with every operand, and every
command word is one of them. The command word is the spec's own decision D26. -/
def Obligations.CommandsRoundTrip : Prop :=
  (∀ (c : Cfg) (i : Instr) (w : BitVec 32), encode c i = some (.cmd w) → decodeCmd w = i) ∧
    ∀ (c : Cfg) (w : BitVec 32), ∃ w', encode c (decodeCmd w) = some (.cmd w') ∧ cmdOp w' = cmdOp w

/-- 30_encoding.md R100: bits 30:29 and the bits of `arg` that an operation does not name are
ignored. The command word is the spec's own decision D26. -/
def Obligations.IgnoredCommandBits : Prop :=
  ∀ w x : BitVec 32, w.getLsbD 31 = x.getLsbD 31 → w.extractLsb' 24 5 = x.extractLsb' 24 5 →
    w.extractLsb' 0 24 &&& namedArg (w.extractLsb' 24 5) =
      x.extractLsb' 0 24 &&& namedArg (w.extractLsb' 24 5) →
    decodeCmd w = decodeCmd x

/-- Words written out from 41_codec_frames.md R132 to R143 and 43_host_commands.md R214 to R234,
of every family, decode to the instructions they stand for (configuration: the defaults of
00_scope.md R6). The payload bits are the placeholders LAYOUT_REF and FIXUP_REF (log entry 18). -/
def Obligations.WordsDecode : Prop :=
  decodeFrame (cfgRef .zoned 0) ⟨0xFE, 0x5F, 0xFF, 0x76, 0x67, 0xF7, 0xF7, 0xFF⟩ true =
      .configIU ⟨1, .controller, 0, true, { b1 := 0x80 }⟩
        { enabled := true, mode := 4, setpoint := 24, economy := true }
        { error := true, filterTimerExpired := true, lockSetpoint := true } ∧
    decodeFrame (cfgRef .zoned 0) ⟨0xDF, 0x7E, 0xAF, 0xFF, 0xFF, 0xFF, 0xFF, 0xEF⟩ false =
      .zoneConfigC ⟨0, .indoorUnit, 1, false, { b1 := 0x80, b7 := 0x10 }⟩ {} false ∧
    decodeFrame (cfgRef .legacy 0) ⟨0xFE, 0x5F, 0xAF, 0xFF, 0xFF, 0xFF, 0xFF, 0xFF⟩ true =
      .unknown5Legacy ⟨1, .controller, 0, true, { b1 := 0x80 }⟩ .indoorUnit ∧
    decodeCmd 0x83000012 = .setSetpoint true 18 ∧
    decodeCmd 0x0D000103 = .setZone false 3 true ∧
    decodeCmd 0x1101020B = .queueFunction false ⟨11, 2, 1⟩ ∧
    decodeCmd 0x9F000000 = .undefinedOp31

/-! The codec primitives. -/

/-- 40_codec_primitives.md R110: `INVERT`. -/
def Obligations.Invert : Prop :=
  ∀ (s : State) (f : Frame), ∃ r,
    exec (.invert f) s = .next (withResult (.frame r) s) ∧
      (∀ k, k ≤ 7 → r.lane k = ~~~(f.lane k)) ∧
      exec (.invert r) s = .next (withResult (.frame f) s) ∧
      (f = Frame.zero → r = ⟨0xFF, 0xFF, 0xFF, 0xFF, 0xFF, 0xFF, 0xFF, 0xFF⟩) ∧ r ≠ f

/-- 40_codec_primitives.md R111: the field load. -/
def Obligations.GetField : Prop :=
  ∀ (s : State) (d : Descriptor), d.byteOk = true → d.maskOk = true → ∃ v : Byte,
    v = (s.work.buf.lane d.byte &&& d.mask) >>> d.shift ∧
      exec (.getField d) s = .next (withResult (.byte v) s) ∧
      v.toNat < 2 ^ popCount d.mask ∧
      ∀ f : Frame, f.lane d.byte &&& d.mask = s.work.buf.lane d.byte &&& d.mask →
        exec (.getField d) (withBuffer f s) = .next (withResult (.byte v) (withBuffer f s))

/-- 40_codec_primitives.md R112: the field store ORs, truncates and leaves every other bit. -/
def Obligations.SetField : Prop :=
  ∀ (s : State) (d : Descriptor) (v : BitVec 16), d.byteOk = true → d.maskOk = true → ∃ f : Frame,
    exec (.setField d v) s = .next (withBuffer f s) ∧
      f.lane d.byte = s.work.buf.lane d.byte ||| ((v <<< d.shift).setWidth 8 &&& d.mask) ∧
      (∀ k, k ≠ d.byte → f.lane k = s.work.buf.lane k) ∧
      (∀ k, f.lane k &&& s.work.buf.lane k = s.work.buf.lane k) ∧
      f.lane d.byte &&& ~~~d.mask = s.work.buf.lane d.byte &&& ~~~d.mask ∧
      (s.work.buf.lane d.byte &&& d.mask = 0 →
        ((f.lane d.byte &&& d.mask) >>> d.shift).toNat = v.toNat % 2 ^ popCount d.mask) ∧
      (v = 0 → f = s.work.buf)

/-- 40_codec_primitives.md R113 and R114: `EXTRACT` gathers the bits of one parity, `INTERLEAVE`
scatters the low 4 bits to one parity and leaves the other 0; the other bits of their operands do not
count. -/
def Obligations.ExtractInterleave : Prop :=
  ∀ (s : State) (b v : Byte) (p : Parity), ∃ (e : BitVec 4) (r : Byte),
    exec (.extract b p) s = .next (withResult (.nibble e) s) ∧
      (∀ k, k < 4 → e.getLsbD k = b.getLsbD (2 * k + parityNumber p)) ∧
      exec (.interleave v p) s = .next (withResult (.byte r) s) ∧
      (∀ k, k < 4 → r.getLsbD (2 * k + parityNumber p) = v.getLsbD k) ∧
      (∀ k, k < 4 → r.getLsbD (2 * k + (1 - parityNumber p)) = false)

/-- The laws of the pair, 40_codec_primitives.md R118, which the spec derives from R113 and R114. -/
def Obligations.PairLaws : Prop :=
  ∀ (s : State) (b v : Byte) (p q : Parity), ∃ (e o : BitVec 4) (r x y : Byte),
    exec (.interleave v p) s = .next (withResult (.byte r) s) ∧
      exec (.extract r p) s = .next (withResult (.nibble (v.setWidth 4)) s) ∧
      (q ≠ p → exec (.extract r q) s = .next (withResult (.nibble 0) s)) ∧
      exec (.extract b .even) s = .next (withResult (.nibble e) s) ∧
      exec (.extract b .odd) s = .next (withResult (.nibble o) s) ∧
      exec (.interleave (e.setWidth 8) .even) s = .next (withResult (.byte x) s) ∧
      exec (.interleave (o.setWidth 8) .odd) s = .next (withResult (.byte y) s) ∧
      x = b &&& 0x55 ∧ y = b &&& 0xAA ∧ x ||| y = b

/-- 40_codec_primitives.md R115 and R116: the temperature packed and unpacked, both variants, and
where the round trip is exact. The rounding is the spec's own decision D10. -/
def Obligations.Temperatures : Prop :=
  ∀ (s : State) (t : Temp) (z : BitVec 7) (l : BitVec 6), ∃ (hz hl : BitVec 17) (uz ul : Temp),
    exec (.tempPackZ t) s = .next (withResult (.packed hz) s) ∧ hz.toNat = (t.toNat + 64) / 128 ∧
      exec (.tempUnpackZ z) s = .next (withResult (.temp uz) s) ∧ uz.toNat = z.toNat * 128 ∧
      exec (.tempPackL t) s = .next (withResult (.packed hl) s) ∧ hl.toNat = (t.toNat + 128) / 256 ∧
      exec (.tempUnpackL l) s = .next (withResult (.temp ul) s) ∧ ul.toNat = l.toNat * 256 ∧
      exec (.tempPackZ uz) s = .next (withResult (.packed (z.setWidth 17)) s) ∧
      exec (.tempPackL ul) s = .next (withResult (.packed (l.setWidth 17)) s) ∧
      (exec (.tempUnpackZ (hz.setWidth 7)) s = .next (withResult (.temp t) s) ↔
        t.toNat % 128 = 0 ∧ t.toNat < 16320) ∧
      (exec (.tempUnpackL (hl.setWidth 6)) s = .next (withResult (.temp t) s) ↔
        t.toNat % 256 = 0 ∧ t.toNat < 16256) ∧
      (127 < hz.toNat ↔ 16320 ≤ t.toNat) ∧ (63 < hl.toNat ↔ 16256 ≤ t.toNat)

/-- 41_codec_frames.md R140: the zone group maps, bit for bit, and their round trip. That the low
byte holds zones 1 to 4 is the spec's own decision D11. -/
def Obligations.GroupMaps : Prop :=
  ∀ z : ZoneFields,
    (∀ k, k < 4 →
      (groupMapLo z).getLsbD (2 * k) = z.zoneGroupDay.getLsbD k ∧
      (groupMapLo z).getLsbD (2 * k + 1) = z.zoneGroupNight.getLsbD k ∧
      (groupMapHi z).getLsbD (2 * k) = z.zoneGroupDay.getLsbD (k + 4) ∧
      (groupMapHi z).getLsbD (2 * k + 1) = z.zoneGroupNight.getLsbD (k + 4)) ∧
    groupMask (groupMapLo z) (groupMapHi z) .even = z.zoneGroupDay ∧
    groupMask (groupMapLo z) (groupMapHi z) .odd = z.zoneGroupNight

/-- 41_codec_frames.md R130: `DECODE` of any wire frame: the header by its bits (30_encoding.md R71), the
kind by the table of R74, and each field of the body by its own descriptor (41_codec_frames.md R132 to
R143). The kind `Unknown`, the shared layouts, the Legacy temperature and the order of the group map
bytes are the spec's own decisions D5, D6, D10, D11 and D34. -/
def Obligations.DecodeHeader : Prop :=
  ∀ (s : State) (w : Frame), ∃ p,
    exec (.decode w) s = .next (withResult (.packet p) (withBuffer (invertFrame w) s)) ∧
      (p.src.role = .controller ↔ (~~~w.b0).getLsbD 5 = true) ∧
      p.src.addr = ((~~~w.b0).extractLsb' 0 4).setWidth 8 ∧
      (p.tok.role = .controller ↔ (~~~w.b1).getLsbD 5 = true) ∧
      p.tok.addr = ((~~~w.b1).extractLsb' 0 4).setWidth 8 ∧
      p.typeCode = (~~~w.b2).extractLsb' 4 3 ∧
      p.shaped s.cfg = true ∧
      p.body = decodeBody s.cfg (kindOf s.cfg.variant p.typeCode p.src.role) (invertFrame w) ∧
      (∃ k, isKind s.cfg.variant p.typeCode p.src.role k) ∧
      ∀ k, isKind s.cfg.variant p.typeCode p.src.role k →
        kindOf s.cfg.variant p.typeCode p.src.role = k ∧
          readsAs s.cfg.variant (fieldAt s.cfg k (invertFrame w)) p.body k

/-- 41_codec_frames.md R131: `ENCODE` and `ENCODE_LOGICAL` of any packet: the header, the universal bit,
the fixups and every field stand in the frame, an address above 15 truncated, and every other bit is
0. The fields of each kind hold the parts of the body that 41_codec_frames.md R132 to R142 name; a kind
with no field has the fixups only. For a body of another shape than its kind's, the value stored is
the model's choice (`fieldValue`, log entry 23). The truncated address, the rounding and the order of
the group map bytes are the spec's own decisions D29, D10 and D11. -/
def Obligations.EncodeFrame : Prop :=
  ∀ (s : State) (p : Packet), ∃ f,
    exec (.encodeLogical p) s = .next (withResult (.frame f) (withBuffer f s)) ∧
      exec (.encode p) s = .next (withResult (.frame (invertFrame f)) (withBuffer f s)) ∧
      (s.cfg.wellFormed = true →
        (f.b0.getLsbD 5 = true ↔ p.src.role = .controller) ∧
        f.b0.extractLsb' 0 4 = p.src.addr.setWidth 4 ∧
        (f.b1.getLsbD 5 = true ↔ p.tok.role = .controller) ∧
        f.b1.extractLsb' 0 4 = p.tok.addr.setWidth 4 ∧
        f.b1.getLsbD 7 = true ∧
        f.b2.extractLsb' 4 3 = p.typeCode ∧
        (∀ n, n ∈ fieldsOf s.cfg.variant (packetKind s.cfg p) →
          (getFieldOf (s.cfg.layout.get s.cfg.variant (packetKind s.cfg p) n) f).toNat =
            (fieldValue s.cfg.variant p.body n).toNat % 2 ^ fieldWidth s.cfg.variant n) ∧
        (∀ k, isKind s.cfg.variant p.typeCode p.src.role k →
          writtenAs s.cfg.variant (fieldAt s.cfg k f) k p.body ∧
          (k = .status ∨ k = .zoneFunctionC ∨ k = .unknown → ∀ i, 3 ≤ i → i ≤ 7 →
            f.lane i = (s.cfg.fixupOf p.typeCode p.src.role).lane i)) ∧
        f.and (s.cfg.fixupOf p.typeCode p.src.role) = s.cfg.fixupOf p.typeCode p.src.role ∧
        f.and (invertFrame ((coveredBits s.cfg (packetKind s.cfg p)).or
          (Frame.or { b1 := 0x80 } (s.cfg.fixupOf p.typeCode p.src.role)))) = Frame.zero)

/-- The pseudo-forms of 30_encoding.md R104 as instructions of their own (the model's choice, log entry
9): the request of 42_fsm_rx.md R183, R185 or R186 is built, and transmitted where the turn is held
(R182). The zone forms are "Zoned only": what they do in the Legacy variant is the model's choice too (log
entry 9). -/
def Obligations.PseudoForms : Prop :=
  ∀ (s : State) (i : Instr) (r : Packet),
    (i = .featuresReq ∧ r = replyPacket s 2 (.features {})) ∨
      (i = .zoneFunctionReq ∧ r = replyPacket s 6 (.zoneFunction {})) ∨
      (i = .zoneConfigReq ∧ r = replyPacket s 5 (.zoneConfig {})) →
    (s.work.turn = false →
      exec i s = .next { s with work := { s.work with reply := some r } }) ∧
    (s.work.turn = true →
      exec i s = .next { s with
        work := { s.work with reply := some r, buf := encodeLogicalOf s.cfg r }
        ports := { s.ports with out := s.ports.out ++ sent s.cfg r } })

/-! Received frames: steps 1 and 2. -/

/-- 42_fsm_rx.md R160: RX_FRAME on any wire frame is the row that the frame decodes to. -/
def Obligations.RxFrameIsItsRow : Prop :=
  ∀ (s : State) (w : Frame) (last : Bool), s.cfg.wellFormed = true →
    exec (.rxFrame w last) s = exec (decodeFrame s.cfg w last) s

/-- 42_fsm_rx.md R169, R171 and R173: an Error packet of the indoor unit is observed and notified, a
Function is notified, a Status does nothing; none writes a session register, and steps 1, 3 and 4
apply to each. -/
def Obligations.ReportRows : Prop :=
  ∀ (s : State) (h : RxHead) (code : Byte) (b : FunctionBody),
    let d := step1Of (.errorIU h code) s
    closesFrom (.errorIU h code) s
      { d with work := { d.work with errObserved := true, pending := some (.error code) } } ∧
    closesFrom (.functionIU h b) s (withPending (.functionReceived b) (step1Of (.functionIU h b) s)) ∧
    closesFrom (.statusIU h) s (step1Of (.statusIU h) s)

/-- What another controller or an `Unknown` frame does in step 2, by the spec's decisions in
42_fsm_rx.md R175, R176 and R177: a Config is notified whatever its source address, an Error is
observed, the other rows do nothing. No session register is written; steps 1, 3 and 4 apply. What a
row that no frame of the strapped variant decodes to does by itself is the model's choice (log entry
10). -/
def Obligations.ControllerRows : Prop :=
  ∀ (s : State) (h : RxHead) (r : Role) (common : ConfigCommon) (ctl : CtlSub) (code : Byte)
    (f : Features) (b : FunctionBody) (z : ZoneFields) (v : Bool),
    let e := step1Of (.errorC h code) s
    closesFrom (.configC h common ctl) s
      (withPending (.remoteControllerConfig h.srcAddr { common := common, iu := {}, ctl := ctl })
        (step1Of (.configC h common ctl) s)) ∧
    closesFrom (.errorC h code) s { e with work := { e.work with errObserved := true } } ∧
    ∀ i ∈ [Instr.featuresC h f, .functionC h b, .statusC h, .zoneConfigC h z v, .zoneFunctionC h,
        .unknown7 h r, .unknown5Legacy h r, .unknown6Legacy h r],
      closesFrom i s (step1Of i s)

/-- 42_fsm_rx.md R170: Features of the indoor unit are stored in `FeatureRequest` only, and there
start zone negotiation or token discovery. That it is ignored in other stages is the spec's own
decision D17. -/
def Obligations.FeaturesRow : Prop :=
  ∀ (s : State) (h : RxHead) (f : Features),
    let d := step1Of (.featuresIU h f) s
    (s.S.stage = .featureRequest → closesFrom (.featuresIU h f) s
      (stageSet
        (if s.cfg.variant = .zoned ∧ f.zones = true then .zoneRequestEnabled else .findNextControllerTx)
        { d with S := { d.S with features := f } })) ∧
    (s.S.stage ≠ .featureRequest → closesFrom (.featuresIU h f) s d)

/-- 42_fsm_rx.md R172: a ZoneFunction of the indoor unit is stored in `ZoneRequestEnabled` only,
and there starts token discovery. That it is ignored in other stages is the spec's own decision
D17. The row is "Zoned variant only": that it does nothing in step 2 in the Legacy variant, where no
frame decodes to it, is the model's choice (log entry 10). -/
def Obligations.ZoneFunctionRow : Prop :=
  ∀ (s : State) (h : RxHead) (b : ZoneFunctionBody),
    let d := step1Of (.zoneFunctionIU h b) s
    (s.cfg.variant = .zoned → s.S.stage = .zoneRequestEnabled → closesFrom (.zoneFunctionIU h b) s
      (stageSet .findNextControllerTx
        { d with S := { d.S with zoneEnabled := b.enabledZones, zoneCommon := b.commonZone } })) ∧
    (s.cfg.variant = .legacy ∨ s.S.stage ≠ .zoneRequestEnabled →
      closesFrom (.zoneFunctionIU h b) s d)

/-- 42_fsm_rx.md R174: a ZoneConfig of the indoor unit is stored and notified in every stage, and
ends `ZoneRequestActive`, the stage after step 1. That it is stored in other stages is the spec's
own decision D17. The row is "Zoned variant only": that it does nothing in step 2 in the Legacy
variant, where no frame decodes to it, is the model's choice (log entry 10). -/
def Obligations.ZoneConfigRow : Prop :=
  ∀ (s : State) (h : RxHead) (z : ZoneFields),
    let d := step1Of (.zoneConfigIU h z) s
    let d' := withPending (.zoneConfigUpdate z) { d with S := { d.S with zcur := z } }
    (s.cfg.variant = .zoned → d.S.stage = .zoneRequestActive →
      closesFrom (.zoneConfigIU h z) s (stageSet .complete d')) ∧
    (s.cfg.variant = .zoned → d.S.stage ≠ .zoneRequestActive → closesFrom (.zoneConfigIU h z) s d') ∧
    (s.cfg.variant = .legacy → closesFrom (.zoneConfigIU h z) s d)

/-- 42_fsm_rx.md R164 to R167: a Config of the indoor unit: feature detection, the error flag, the
merge and its notification, in this order. The error flag and the order are the spec's own
decisions D18 and D36. -/
def Obligations.ConfigRow : Prop :=
  ∀ (s : State) (h : RxHead) (common : ConfigCommon) (iu : IUSub),
    let d := step1Of (.configIU h common iu) s
    let d0 :=
      if s.S.stage = .detectFeatureSupport then
        if iu.unknownFlags = 2 then
          stageSet .findNextControllerTx { d with S := { d.S with features := s.cfg.defaultFeatures } }
        else stageSet .featureRequest d
      else d
    closesFrom (.configIU h common iu) s
      { d0 with
        S := { d0.S with
          cur := { common := common, iu := iu, ctl := s.S.cur.ctl }
          lastError := iu.error }
        work := { d0.work with
          errChanged := decide (iu.error ≠ s.S.lastError)
          pending := some (.configUpdate { common := common, iu := iu, ctl := s.S.cur.ctl }) } }

/-- 42_fsm_rx.md R163: the first frame in `FindNextControllerRx`, whatever row it is, ends the
stage; a source that is no controller degrades the next token destination. That any source ends
the stage is the spec's own decision D16. -/
def Obligations.NeighbourDiscovery : Prop :=
  ∀ (s : State) (i : Instr) (h : RxHead) (p : Packet), i.received = some (h, p) →
    s.S.stage = .findNextControllerRx →
    ∃ t rest, exec i s = .next t ∧
      t.S.nextTok = (if p.src.role = .controller then s.S.nextTok else .indoorUnit) ∧
      t.ports.out = s.ports.out ++
        [.evt (.rawRx (rawOf s.cfg p h.ignored)),
          .evt (.stageChanged
            (if s.cfg.variant = .zoned ∧ s.S.features.zones = true then .zoneRequestActive
              else .complete) s.S.features)] ++ rest ∧
      (t.S.stage = .complete ∨ t.S.stage = .zoneRequestActive ∧ s.cfg.variant = .zoned ∧
        s.S.features.zones = true)

/-! Received frames: steps 3 and 4, on the state `b` after step 2. -/

/-- 42_fsm_rx.md R178: the turn. Without it step 3 does nothing (no reply, no register changed, the dirty
bits wait; step 4 still notifies); with it, whatever the stage, the kind and the source, one frame is
sent. -/
def Obligations.TurnCondition : Prop :=
  ∀ (b : State) (tok : Address) (last : Bool),
    (¬ownsTurn b.cfg tok last → closeFrame tok last b = afterNoTurn b) ∧
    (ownsTurn b.cfg tok last → ∃ w,
      framesSent (closeFrame tok last b).ports.out = framesSent b.ports.out ++ [w])

/-- 42_fsm_rx.md R183, R185 and R186: a stage with a request of its own sends it on every turn, and no
register changes. That the request is sent on every turn while the stage lasts is the spec's own
decision D35. -/
def Obligations.RequestReplies : Prop :=
  ∀ (b : State) (tok : Address) (last : Bool), ownsTurn b.cfg tok last →
    (b.S.stage = .featureRequest →
      closeFrame tok last b = afterReply b (replyPacket b 2 (.features {})) b.S) ∧
    (b.S.stage = .zoneRequestEnabled →
      closeFrame tok last b = afterReply b (replyPacket b 6 (.zoneFunction {})) b.S) ∧
    (b.S.stage = .zoneRequestActive →
      closeFrame tok last b = afterReply b (replyPacket b 5 (.zoneConfig {})) b.S)

/-- 42_fsm_rx.md R184: the Error reply of the primary to a changed error flag, of another
controller to an Error packet observed; `Code` is 0 and no register changes. The code 0 is the
spec's own decision D18, the reply's place in the choice and the stages that use it D35. -/
def Obligations.ErrorReply : Prop :=
  ∀ (b : State) (tok : Address) (last : Bool), ownsTurn b.cfg tok last →
    ¬requestStage (atReply b).S.stage → errorReplyDue b →
      closeFrame tok last b =
        afterReply (atReply b) (replyPacket (atReply b) 1 (.error 0)) (atReply b).S

/-- 42_fsm_rx.md R187: the ZoneConfig write: the dirty fields on top of `S.zcur`, `Write` set, all zone
dirty bits cleared, `S.zcur` kept. Its place in the choice of replies and the stages that use the general
chain are the spec's own decision D35. -/
def Obligations.ZoneWriteReply : Prop :=
  ∀ (b : State) (tok : Address) (last : Bool), ownsTurn b.cfg tok last →
    ¬requestStage (atReply b).S.stage → ¬errorReplyDue b → b.S.zdirty ≠ 0 →
      ∃ z : ZoneFields,
        z.activeZones = (if b.S.zdirty.getLsbD 0 then b.S.zchg.activeZones else b.S.zcur.activeZones) ∧
        z.zoneGroupDay =
          (if b.S.zdirty.getLsbD 1 then b.S.zchg.zoneGroupDay else b.S.zcur.zoneGroupDay) ∧
        z.zoneGroupNight =
          (if b.S.zdirty.getLsbD 2 then b.S.zchg.zoneGroupNight else b.S.zcur.zoneGroupNight) ∧
        z.dayGroupActive =
          (if b.S.zdirty.getLsbD 3 then b.S.zchg.dayGroupActive else b.S.zcur.dayGroupActive) ∧
        z.nightGroupActive =
          (if b.S.zdirty.getLsbD 4 then b.S.zchg.nightGroupActive else b.S.zcur.nightGroupActive) ∧
        closeFrame tok last b =
          afterReply (atReply b) (replyPacket (atReply b) 5 (.zoneConfig ⟨z, true⟩))
            { (atReply b).S with zdirty := 0 }

/-- 42_fsm_rx.md R188: the Function reply pops the head of the queue. Its place in the choice of replies and
the stages that use the general chain are the spec's own decision D35. -/
def Obligations.FunctionReply : Prop :=
  ∀ (b : State) (tok : Address) (last : Bool) (f : FunctionBody) (rest : List FunctionBody),
    ownsTurn b.cfg tok last → ¬requestStage (atReply b).S.stage → ¬errorReplyDue b →
    b.S.zdirty = 0 → b.S.funcq = f :: rest →
      closeFrame tok last b =
        afterReply (atReply b) (replyPacket (atReply b) 3 (.function f))
          { (atReply b).S with funcq := rest }

/-- 42_fsm_rx.md R190 and R191: the Config reply: dirty fields from `S.chg`, the others echoed,
the two host-supplied fields kept, `Write` set where a dirty bit was applied; then every dirty bit
is cleared, but a self-clearing field sent as 1 is dirty again with value 0. What the reply
consumes and which fields clear themselves are the spec's own decisions D19 and D20, its place in the
choice and the stages that use it D35. -/
def Obligations.ConfigReply : Prop :=
  ∀ (b : State) (tok : Address) (last : Bool), b.cfg.wellFormed = true → ownsTurn b.cfg tok last →
    ¬requestStage (atReply b).S.stage → ¬errorReplyDue b → b.S.zdirty = 0 → b.S.funcq = [] →
    let d := b.S.dirty
    let g := b.S.chg
    let u := b.S.cur
    ∃ (m : ConfigCommon) (k : CtlSub) (g' : Chg) (d' : BitVec 12),
      m.enabled = (if d.getLsbD 0 then g.common.enabled else u.common.enabled) ∧
      m.economy = (if d.getLsbD 1 then g.common.economy else u.common.economy) ∧
      m.setpoint = (if d.getLsbD 2 then g.common.setpoint else u.common.setpoint) ∧
      m.testRun = (if d.getLsbD 3 then g.common.testRun else u.common.testRun) ∧
      m.mode = (if d.getLsbD 4 then g.common.mode else u.common.mode) ∧
      m.fanSpeed = (if d.getLsbD 5 then g.common.fanSpeed else u.common.fanSpeed) ∧
      m.swingVertical = (if d.getLsbD 6 then g.common.swingVertical else u.common.swingVertical) ∧
      m.swingHorizontal =
        (if d.getLsbD 7 then g.common.swingHorizontal else u.common.swingHorizontal) ∧
      k.advanceVerticalLouver = (d.getLsbD 8 && g.advanceVerticalLouver) ∧
      k.advanceHorizontalLouver = (d.getLsbD 9 && g.advanceHorizontalLouver) ∧
      k.resetFilterTimer = (d.getLsbD 10 && g.resetFilterTimer) ∧
      k.maintenance = (d.getLsbD 11 && g.maintenance) ∧
      k.temperature = u.ctl.temperature ∧ k.useControllerSensor = u.ctl.useControllerSensor ∧
      (k.write = true ↔ d ≠ 0) ∧
      closeFrame tok last b =
        afterReply (atReply b) (replyPacket (atReply b) 0 (.config ⟨m, {}, k⟩))
          { (atReply b).S with chg := g', dirty := d' } ∧
      (∀ f : ConfigField, d'.getLsbD (dirtyIndex f) = true ↔
        f ∈ b.cfg.selfClearing ∧ d.getLsbD (dirtyIndex f) = true ∧ momentaryValue g f = true) ∧
      g'.common = g.common ∧
      ∀ f : ConfigField, momentaryValue g' f =
        (momentaryValue g f && !(d.getLsbD (dirtyIndex f) && decide (f ∈ b.cfg.selfClearing)))

/-- 42_fsm_rx.md R179 and R180: the turn in `FindNextControllerTx`: the stage goes on, the
neighbour is the next token destination, and the frame sent names it, address 15 wrapping to 0.
The token address and its wrap are the spec's own decisions D14 and D29. -/
def Obligations.DiscoveryTurn : Prop :=
  ∀ (b : State) (tok : Address) (last : Bool), b.cfg.wellFormed = true → ownsTurn b.cfg tok last →
    b.S.stage = .findNextControllerTx →
    ∃ w rest, (closeFrame tok last b).S.stage = .findNextControllerRx ∧
      (closeFrame tok last b).S.nextTok = .controller ∧
      (closeFrame tok last b).ports.out = b.ports.out ++
        .evt (.stageChanged .findNextControllerRx b.S.features) :: .tx (Frame.toPort w) :: rest ∧
      (decodeOf b.cfg w).src = ⟨.controller, b.cfg.ctrlAddr.setWidth 8⟩ ∧
      (decodeOf b.cfg w).tok = ⟨.controller, (b.cfg.ctrlAddr + 1).setWidth 8⟩

/-! Received frames as a whole. -/

/-- 20_memory.md R62: the order of the outputs of one RX_FRAME transaction, which always
completes; and what no frame changes. The place of the raw events is the spec's own decision D32; one
trace for all ports and the idle transients are the model's choices (log entries 5 and 6). -/
def Obligations.OutputOrder : Prop :=
  ∀ (s : State) (i : Instr) (h : RxHead) (p : Packet), i.received = some (h, p) →
    ∃ t stages reply note, exec i s = .next t ∧
      t.ports.out = s.ports.out ++
        .evt (.rawRx (rawOf s.cfg p h.ignored)) :: (stages ++ reply ++ note) ∧
      (∀ o ∈ stages, Output.isStageChanged o = true) ∧
      (¬ownsTurn s.cfg (tokenOf h) h.last → reply = []) ∧
      (ownsTurn s.cfg (tokenOf h) h.last → ∃ l : Frame,
        reply = [.tx (invertFrame l).toPort, .evt (.rawTx l)]) ∧
      (note = [] ∨ ∃ o, note = [o] ∧ Output.isDeferred o = true) ∧
      t.cfg = s.cfg ∧ t.work = Transients.idle ∧ t.ports.rst = s.ports.rst ∧
      t.ports.rx = s.ports.rx ∧ t.ports.cmd = s.ports.cmd ∧
      t.S.cur.ctl = s.S.cur.ctl ∧ t.S.zchg = s.S.zchg ∧ t.S.chg.common = s.S.chg.common

/-- 93_implementation_defined.md U1, 30_encoding.md R98: bits that no field of the kind covers show in
`RawRx` only. -/
def Obligations.IgnoredFrameBits : Prop :=
  ∀ (s : State) (w x : Frame) (last : Bool),
    let m := coveredBits s.cfg (packetKind s.cfg (decodeOf s.cfg w))
    (invertFrame w).and m = (invertFrame x).and m →
    ∃ t rest, exec (.rxFrame w last) s = .next t ∧
      t.ports.out = s.ports.out ++ .evt (.rawRx (invertFrame w)) :: rest ∧
      exec (.rxFrame x last) s = .next { t with
        ports := { t.ports with out := s.ports.out ++ .evt (.rawRx (invertFrame x)) :: rest } }

/-- 42_fsm_rx.md R182: at most one frame leaves in a step, only a frame that gives the turn makes
one leave, its source is this controller, and its kind is one the block may send. The spec derives
it from R179 and R181. -/
def Obligations.OneReplyPerTurn : Prop :=
  ∀ (s t : State), Inv s → s.ports.rst = none → step s = .next t →
    ∃ outs, t.ports.out = s.ports.out ++ outs ∧
      (framesSent outs = [] ∨ ∃ w item rest, framesSent outs = [w] ∧ s.ports.rx = item :: rest ∧
        ownsTurn s.cfg (decodeOf s.cfg (Frame.ofPort item.data)).tok item.last ∧
        (decodeOf s.cfg w).src = ⟨.controller, s.cfg.ctrlAddr.setWidth 8⟩ ∧
        packetKind s.cfg (decodeOf s.cfg w) ∈
          [Kind.configC, .error, .features, .function, .zoneConfigC, .zoneFunctionC])

/-- 10_state.md R22, 60_exceptions.md R257: the stage moves by the allowed transitions only, each
shown by its `StageChanged`, at most two in one step; and to `DetectFeatureSupport` by REINIT. The
spec's own decision D31 says when the event is emitted. -/
def Obligations.StagePath : Prop :=
  ∀ (s t : State), s.ports.rst = none → step s = .next t →
    ∃ outs, t.ports.out = s.ports.out ++ outs ∧
      ((stagePath s.S.stage (stageEvents outs) t.S.stage ∧ (stageEvents outs).length ≤ 2) ∨
        (s.ports.rx = [] ∧ (∃ w rest o, s.ports.cmd = w :: rest ∧ decodeCmd w = .reinit o) ∧
          stageEvents outs = [.detectFeatureSupport] ∧ t.S.stage = .detectFeatureSupport))

/-- 42_fsm_rx.md R196: against an indoor unit that answers at once and gives every turn,
`Complete` is reached after two frames without features, with the neighbour that did not answer
given up. The spec derives it from the rules of the stages. -/
def Obligations.CompleteInTwoFrames : Prop :=
  ∀ (s : State) (h₁ h₂ : RxHead) (c₁ c₂ : ConfigCommon) (u₁ u₂ : IUSub),
    s.cfg.wellFormed = true → s.S.stage = .detectFeatureSupport → u₁.unknownFlags = 2 →
    ownsTurn s.cfg (tokenOf h₁) h₁.last →
    ∃ t₁ t₂, exec (.configIU h₁ c₁ u₁) s = .next t₁ ∧ t₁.S.stage = .findNextControllerRx ∧
      t₁.S.features = s.cfg.defaultFeatures ∧ t₁.S.nextTok = .controller ∧
      exec (.configIU h₂ c₂ u₂) t₁ = .next t₂ ∧ t₂.S.stage = .complete ∧
      t₂.S.nextTok = .indoorUnit

/-- 42_fsm_rx.md R196: with zones, `Complete` is reached after five frames. The spec derives it
from the rules of the stages. -/
def Obligations.CompleteInFiveFrames : Prop :=
  ∀ (s : State) (h₁ h₂ h₃ h₄ h₅ : RxHead) (c₁ c₄ : ConfigCommon) (u₁ u₄ : IUSub) (f : Features)
    (b : ZoneFunctionBody) (z : ZoneFields),
    s.cfg.variant = .zoned → s.S.stage = .detectFeatureSupport → u₁.unknownFlags ≠ 2 →
    f.zones = true → ownsTurn s.cfg (tokenOf h₃) h₃.last →
    ∃ t₁ t₂ t₃ t₄ t₅, exec (.configIU h₁ c₁ u₁) s = .next t₁ ∧ t₁.S.stage = .featureRequest ∧
      exec (.featuresIU h₂ f) t₁ = .next t₂ ∧ t₂.S.stage = .zoneRequestEnabled ∧
      exec (.zoneFunctionIU h₃ b) t₂ = .next t₃ ∧ t₃.S.stage = .findNextControllerRx ∧
      exec (.configIU h₄ c₄ u₄) t₃ = .next t₄ ∧ t₄.S.stage = .zoneRequestActive ∧
      exec (.zoneConfigIU h₅ z) t₄ = .next t₅ ∧ t₅.S.stage = .complete ∧
      t₅.S.features = f ∧ t₅.S.zoneEnabled = b.enabledZones ∧ t₅.S.zcur = z

/-- 70_reset_and_hazards.md R301: a request stage is left by the awaited answer only, and the
change that waits is kept, whatever frame comes and whether it gives the turn or not. The spec
derives it from R178 and R181. -/
def Obligations.RequestsWait : Prop :=
  ∀ (s : State) (i : Instr) (h : RxHead) (p : Packet), i.received = some (h, p) →
    requestStage s.S.stage →
    (∀ h f, s.S.stage = .featureRequest → i ≠ .featuresIU h f) →
    (∀ h b, s.S.stage = .zoneRequestEnabled → i ≠ .zoneFunctionIU h b) →
    (∀ h z, s.S.stage = .zoneRequestActive → i ≠ .zoneConfigIU h z) →
    ∃ t, exec i s = .next t ∧ t.S.stage = s.S.stage ∧ t.S.dirty = s.S.dirty ∧ t.S.chg = s.S.chg ∧
      t.S.zdirty = s.S.zdirty ∧ t.S.funcq = s.S.funcq ∧ t.S.nextTok = s.S.nextTok ∧
      t.S.features = s.S.features

/-- 42_fsm_rx.md R191: RESET_FILTER asserted once gives exactly two Config packets with `Write`
set, the first with the flag, the second without it; the third is a poll (the default
`CFG.SELF_CLEARING`). Which fields clear themselves is the spec's own decision D20. -/
def Obligations.TwoWritesThenPoll : Prop :=
  ∀ (s : State) (o : Bool) (h₁ h₂ h₃ : RxHead),
    s.cfg.wellFormed = true → s.cfg.selfClearing = [.resetFilterTimer, .maintenance] →
    s.S.stage = .complete → s.S.zdirty = 0 → s.S.funcq = [] → s.S.dirty = 0 →
    s.S.features.filterTimer = true → ¬lockedOut s .resetFilter o →
    ownsTurn s.cfg (tokenOf h₁) h₁.last → ownsTurn s.cfg (tokenOf h₂) h₂.last →
    ownsTurn s.cfg (tokenOf h₃) h₃.last →
    ∃ t₀ t₁ t₂ t₃ w₁ w₂ w₃ b₁ b₂ b₃, exec (.resetFilter o) s = .next t₀ ∧
      exec (.statusIU h₁) t₀ = .next t₁ ∧ exec (.statusIU h₂) t₁ = .next t₂ ∧
      exec (.statusIU h₃) t₂ = .next t₃ ∧
      framesSent t₃.ports.out = framesSent s.ports.out ++ [w₁, w₂, w₃] ∧
      (decodeOf s.cfg w₁).body = .config b₁ ∧ (decodeOf s.cfg w₂).body = .config b₂ ∧
      (decodeOf s.cfg w₃).body = .config b₃ ∧
      b₁.ctl.write = true ∧ b₁.ctl.resetFilterTimer = true ∧
      b₂.ctl.write = true ∧ b₂.ctl.resetFilterTimer = false ∧
      b₃.ctl.write = false ∧ b₃.ctl.resetFilterTimer = false ∧ t₃.S.dirty = 0

/-! Host commands. -/

/-- 43_host_commands.md R214 and R216: SET_ENABLED and SET_TEST_RUN: their words, their effect and the
flags that lock them by default. The lock flags and the map are the spec's own decisions D9 and D21,
the words D26. -/
def Obligations.SetEnabledAndTestRun : Prop :=
  ∀ (s : State) (o v : Bool),
    acceptsIff (.setEnabled o v) (¬lockedOut s .setEnabled o) s
      (pended 0 (fun g => { g with common := { g.common with enabled := v } }) s) ∧
    acceptsIff (.setTestRun o v) (¬lockedOut s .setTestRun o) s
      (pended 3 (fun g => { g with common := { g.common with testRun := v } }) s) ∧
    wordsOf 0 (fun w => .setEnabled (w.getLsbD 31) (w.getLsbD 0)) ∧
    wordsOf 2 (fun w => .setTestRun (w.getLsbD 31) (w.getLsbD 0)) ∧
    lockedByDefault s .setEnabled o [.lockAll, .lockEnabled] ∧
    lockedByDefault s .setTestRun o [.lockAll]

/-- 43_host_commands.md R215, R220 and R221: SET_ECONOMY and the two swing commands: their words,
their effect and the flag that locks them by default. The feature bit each needs is the spec's own
decision D22, the words D26, the lock flags and the map D9 and D21. -/
def Obligations.SetEconomyAndSwing : Prop :=
  ∀ (s : State) (o v : Bool),
    acceptsIff (.setEconomy o v)
      (¬lockedOut s .setEconomy o ∧ s.S.features.economyMode = true) s
      (pended 1 (fun g => { g with common := { g.common with economy := v } }) s) ∧
    acceptsIff (.setVerticalSwing o v)
      (¬lockedOut s .setVerticalSwing o ∧ s.S.features.verticalLouvers = true) s
      (pended 6 (fun g => { g with common := { g.common with swingVertical := v } }) s) ∧
    acceptsIff (.setHorizontalSwing o v)
      (¬lockedOut s .setHorizontalSwing o ∧ s.S.features.horizontalLouvers = true) s
      (pended 7 (fun g => { g with common := { g.common with swingHorizontal := v } }) s) ∧
    wordsOf 1 (fun w => .setEconomy (w.getLsbD 31) (w.getLsbD 0)) ∧
    wordsOf 6 (fun w => .setVerticalSwing (w.getLsbD 31) (w.getLsbD 0)) ∧
    wordsOf 7 (fun w => .setHorizontalSwing (w.getLsbD 31) (w.getLsbD 0)) ∧
    lockedByDefault s .setEconomy o [.lockAll] ∧ lockedByDefault s .setVerticalSwing o [.lockAll] ∧
    lockedByDefault s .setHorizontalSwing o [.lockAll]

/-- 43_host_commands.md R217: SET_SETPOINT, 16 to 30 inclusive on all 8 bits, whatever the override: its
words, its effect and the flags that lock it by default. The lock flags and the map are the spec's
own decisions D9 and D21, the words D26. -/
def Obligations.SetSetpoint : Prop :=
  ∀ (s : State) (o : Bool) (d : BitVec 8),
    acceptsIff (.setSetpoint o d)
      (¬lockedOut s .setSetpoint o ∧ 16 ≤ d.toNat ∧ d.toNat ≤ 30) s
      (pended 2 (fun g => { g with common := { g.common with setpoint := d.extractLsb' 0 7 } }) s) ∧
    wordsOf 3 (fun w => .setSetpoint (w.getLsbD 31) (w.extractLsb' 0 8)) ∧
    lockedByDefault s .setSetpoint o [.lockAll, .lockSetpoint]

/-- 43_host_commands.md R218 and R219 (with the codes of 30_encoding.md R96, R97): SET_MODE and
SET_FAN_SPEED: their words, their effect and the flags that lock them by default. The codes are
the spec's own decision D8, the words D26, the lock flags and the map D9 and D21. -/
def Obligations.SetModeAndFanSpeed : Prop :=
  ∀ (s : State) (o : Bool) (m : BitVec 3),
    acceptsIff (.setMode o m)
      (¬lockedOut s .setMode o ∧
        (m = 1 ∧ s.S.features.modeFan = true ∨ m = 2 ∧ s.S.features.modeDry = true ∨
          m = 3 ∧ s.S.features.modeCool = true ∨ m = 4 ∧ s.S.features.modeHeat = true ∨
          m = 5 ∧ s.S.features.modeAuto = true)) s
      (pended 4 (fun g => { g with common := { g.common with mode := m } }) s) ∧
    acceptsIff (.setFanSpeed o m)
      (¬lockedOut s .setFanSpeed o ∧
        (m = 0 ∧ s.S.features.fanAuto = true ∨ m = 1 ∧ s.S.features.fanQuiet = true ∨
          m = 2 ∧ s.S.features.fanLow = true ∨ m = 3 ∧ s.S.features.fanMedium = true ∨
          m = 4 ∧ s.S.features.fanHigh = true)) s
      (pended 5 (fun g => { g with common := { g.common with fanSpeed := m } }) s) ∧
    wordsOf 4 (fun w => .setMode (w.getLsbD 31) (w.extractLsb' 0 3)) ∧
    wordsOf 5 (fun w => .setFanSpeed (w.getLsbD 31) (w.extractLsb' 0 3)) ∧
    lockedByDefault s .setMode o [.lockAll, .lockMode] ∧ lockedByDefault s .setFanSpeed o [.lockAll]

/-- 43_host_commands.md R222, R223, R225 and R226: the four momentary commands: their words, whose
other bits do not count, and their effect. The feature bit each louver needs is the spec's own decision
D22, the words D26. -/
def Obligations.MomentaryCommands : Prop :=
  ∀ (s : State) (o : Bool),
    acceptsIff (.advanceVerticalLouver o)
      (¬lockedOut s .advanceVerticalLouver o ∧ s.S.features.verticalLouvers = true) s
      (pended 8 (fun g => { g with advanceVerticalLouver := true }) s) ∧
    acceptsIff (.advanceHorizontalLouver o)
      (¬lockedOut s .advanceHorizontalLouver o ∧ s.S.features.horizontalLouvers = true) s
      (pended 9 (fun g => { g with advanceHorizontalLouver := true }) s) ∧
    acceptsIff (.resetFilter o)
      (¬lockedOut s .resetFilter o ∧ s.S.features.filterTimer = true) s
      (pended 10 (fun g => { g with resetFilterTimer := true }) s) ∧
    acceptsIff (.maintenance o)
      (¬lockedOut s .maintenance o ∧ s.S.features.maintenance = true) s
      (pended 11 (fun g => { g with maintenance := true }) s) ∧
    wordsOf 8 (fun w => .advanceVerticalLouver (w.getLsbD 31)) ∧
    wordsOf 9 (fun w => .advanceHorizontalLouver (w.getLsbD 31)) ∧
    wordsOf 11 (fun w => .resetFilter (w.getLsbD 31)) ∧
    wordsOf 12 (fun w => .maintenance (w.getLsbD 31))

/-- 43_host_commands.md R224: USE_SENSOR, its words and its effect: it writes the merged record and
sets no dirty bit. The spec's own decision D33, the words D26. -/
def Obligations.UseSensor : Prop :=
  ∀ (s : State) (o v : Bool),
    acceptsIff (.useSensor o v)
      (¬lockedOut s .useSensor o ∧ s.S.features.sensorSwitching = true) s
      { s with S := { s.S with
          cur := { s.S.cur with ctl := { s.S.cur.ctl with useControllerSensor := v } } } } ∧
    wordsOf 10 (fun w => .useSensor (w.getLsbD 31) (w.getLsbD 0))

/-- 43_host_commands.md R228: SET_CURRENT_TEMPERATURE, its words and its effect: it is always accepted
and clamps the signed operand to 0 and 15360. The spec's own decision D33, the words D26. -/
def Obligations.SetCurrentTemperature : Prop :=
  ∀ (s : State) (o : Bool) (t : BitVec 16), ∃ x : Temp,
    exec (.setCurrentTemperature o t) s = .next (answered true
      { s with S := { s.S with
          cur := { s.S.cur with ctl := { s.S.cur.ctl with temperature := x } } } }) ∧
    (x.toNat : Int) = min (max t.toInt 0) 15360 ∧
    wordsOf 16 (fun w => .setCurrentTemperature (w.getLsbD 31) (w.extractLsb' 0 16))

/-- 43_host_commands.md R229: SET_ZONE: its words, its effect, the last active zone, and the flag that
locks it by default. The exact semantics are the spec's own decision D23, the words D26, the lock flags
and the map D9 and D21. -/
def Obligations.SetZone : Prop :=
  ∀ (s : State) (o : Bool) (z : BitVec 4) (v : Bool),
    let base := if s.S.zdirty.getLsbD 0 then s.S.zchg.activeZones else s.S.zcur.activeZones
    acceptsIff (.setZone o z v)
      (zoneAllowed s .setZone o z ∧
        ¬(v = false ∧ zonePut base z v = 0 ∧ s.S.zoneCommon = false)) s
      (zonePended 0 (fun q => { q with activeZones := zonePut base z v }) s) ∧
    wordsOf 13 (fun w => .setZone (w.getLsbD 31) (w.extractLsb' 0 4) (w.getLsbD 8)) ∧
    lockedByDefault s .setZone o [.lockAll]

/-- 43_host_commands.md R230 and R231: the two group commands: their words, their effect (a group may be
empty), and the flag that locks them by default. The exact semantics are the spec's own decision D23,
the words D26, the lock flags and the map D9 and D21. -/
def Obligations.SetZoneGroups : Prop :=
  ∀ (s : State) (o : Bool) (z : BitVec 4) (v : Bool),
    let day := if s.S.zdirty.getLsbD 1 then s.S.zchg.zoneGroupDay else s.S.zcur.zoneGroupDay
    let night := if s.S.zdirty.getLsbD 2 then s.S.zchg.zoneGroupNight else s.S.zcur.zoneGroupNight
    acceptsIff (.setZoneGroupDay o z v) (zoneAllowed s .setZoneGroupDay o z) s
      (zonePended 1 (fun q => { q with zoneGroupDay := zonePut day z v }) s) ∧
    acceptsIff (.setZoneGroupNight o z v) (zoneAllowed s .setZoneGroupNight o z) s
      (zonePended 2 (fun q => { q with zoneGroupNight := zonePut night z v }) s) ∧
    wordsOf 14 (fun w => .setZoneGroupDay (w.getLsbD 31) (w.extractLsb' 0 4) (w.getLsbD 8)) ∧
    wordsOf 15 (fun w => .setZoneGroupNight (w.getLsbD 31) (w.extractLsb' 0 4) (w.getLsbD 8)) ∧
    lockedByDefault s .setZoneGroupDay o [.lockAll] ∧ lockedByDefault s .setZoneGroupNight o [.lockAll]

/-- 43_host_commands.md R233: QUEUE_FUNCTION, its words and its effect: it pushes at the tail unless the
queue holds `CFG.FUNC_QUEUE_DEPTH` entries. The command is the spec's own decision D25, the words D26. -/
def Obligations.QueueFunction : Prop :=
  ∀ (s : State) (o : Bool) (b : FunctionBody),
    acceptsIff (.queueFunction o b) (s.S.funcq.length ≠ s.cfg.funcQueueDepth) s
      { s with S := { s.S with funcq := s.S.funcq ++ [b] } } ∧
    wordsOf 17 (fun w => .queueFunction (w.getLsbD 31)
      ⟨w.extractLsb' 0 8, w.extractLsb' 8 8, w.extractLsb' 16 4⟩)

/-- 43_host_commands.md R232: REINIT is always accepted, forgets what was learned from the bus,
keeps what the host asked for, and emits `StageChanged`. What is cleared beyond the stage is the
spec's own decision D24, the event D31, the words D26; the event's place before the answer in one
trace is log entry 5. -/
def Obligations.Reinit : Prop :=
  ∀ (s : State) (o : Bool),
    exec (.reinit o) s = .next (answered true
      { s with
        S :=
          { stage := .detectFeatureSupport, features := {},
            cur := { common := {}, iu := {}, ctl := s.S.cur.ctl }, chg := s.S.chg,
            dirty := s.S.dirty, zcur := {}, zchg := s.S.zchg, zdirty := s.S.zdirty,
            zoneEnabled := 0, zoneCommon := false, nextTok := .indoorUnit, funcq := s.S.funcq,
            lastError := false }
        ports := { s.ports with
          out := s.ports.out ++ [.evt (.stageChanged .detectFeatureSupport {})] } }) ∧
    wordsOf 18 (fun w => .reinit (w.getLsbD 31))

/-- 43_host_commands.md R234: operation codes 19 to 31 are rejected, whatever the word's other
bits hold. The command word is the spec's own decision D26. -/
def Obligations.UndefinedOps : Prop :=
  (∀ (s : State) (w : BitVec 32), 19 ≤ (w.extractLsb' 24 5).toNat →
    exec (decodeCmd w) s = .next (answered false s)) ∧
  ∀ (s : State) (i : Instr),
    i ∈ [Instr.undefinedOp19, .undefinedOp20, .undefinedOp21, .undefinedOp22, .undefinedOp23,
        .undefinedOp24, .undefinedOp25, .undefinedOp26, .undefinedOp27, .undefinedOp28,
        .undefinedOp29, .undefinedOp30, .undefinedOp31] →
      exec i s = .next (answered false s)

/-- 43_host_commands.md R210: every command completes with exactly one answer; a rejected one changes
no state and emits nothing; none transmits; none but REINIT emits an event or changes what was learned
from the bus. -/
def Obligations.CommandOutcome : Prop :=
  ∀ (s : State) (w : BitVec 32), ∃ t outs accepted, exec (decodeCmd w) s = .next t ∧
    t.ports.out = s.ports.out ++ outs ++ [.cmdAccept accepted] ∧
    (accepted = false → t = answered false s) ∧
    framesSent outs = [] ∧ (∀ o ∈ outs, Output.isEvent o = true) ∧
    t.cfg = s.cfg ∧ t.work = s.work ∧ t.ports.rst = s.ports.rst ∧ t.ports.rx = s.ports.rx ∧
    t.ports.cmd = s.ports.cmd ∧
    ((∃ o, decodeCmd w = .reinit o) ∨
      (outs = [] ∧ t.S.stage = s.S.stage ∧ t.S.features = s.S.features ∧
        t.S.cur.common = s.S.cur.common ∧ t.S.cur.iu = s.S.cur.iu ∧ t.S.zcur = s.S.zcur ∧
        t.S.zoneEnabled = s.S.zoneEnabled ∧ t.S.zoneCommon = s.S.zoneCommon ∧
        t.S.nextTok = s.S.nextTok ∧ t.S.lastError = s.S.lastError))

/-- 43_host_commands.md R212: the default lock map, command by command, and the override. The map
is the spec's own decisions D9, D21 and D22. -/
def Obligations.DefaultLocks : Prop :=
  ∀ (s : State) (o : Bool), s.cfg.lockMap = lockMapRef →
    (lockedOut s .setEnabled o ↔
      o = false ∧ (s.S.cur.iu.lockAll = true ∨ s.S.cur.iu.lockEnabled = true)) ∧
    (lockedOut s .setMode o ↔
      o = false ∧ (s.S.cur.iu.lockAll = true ∨ s.S.cur.iu.lockMode = true)) ∧
    (lockedOut s .setSetpoint o ↔
      o = false ∧ (s.S.cur.iu.lockAll = true ∨ s.S.cur.iu.lockSetpoint = true)) ∧
    (lockedOut s .resetFilter o ↔
      o = false ∧ (s.S.cur.iu.lockAll = true ∨ s.S.cur.iu.lockFilterReset = true)) ∧
    ∀ k ∈ [LockCmd.setEconomy, .setTestRun, .setFanSpeed, .setVerticalSwing, .setHorizontalSwing,
        .advanceVerticalLouver, .advanceHorizontalLouver, .useSensor, .maintenance, .setZone,
        .setZoneGroupDay, .setZoneGroupNight],
      (lockedOut s k o ↔ o = false ∧ s.S.cur.iu.lockAll = true)

/-- 43_host_commands.md R213, 70_reset_and_hazards.md R299: before features are known every
feature-gated command is rejected. The spec derives it from R212 and R213. -/
def Obligations.BeforeNegotiation : Prop :=
  ∀ (s : State) (i : Instr) (o v : Bool) (m : BitVec 3) (z : BitVec 4), s.S.features = {} →
    i ∈ [Instr.setEconomy o v, .setMode o m, .setFanSpeed o m, .setVerticalSwing o v,
        .setHorizontalSwing o v, .advanceVerticalLouver o, .advanceHorizontalLouver o,
        .useSensor o v, .resetFilter o, .maintenance o, .setZone o z v, .setZoneGroupDay o z v,
        .setZoneGroupNight o z v] →
      exec i s = .next (answered false s)

/-! The machine. -/

/-- 20_memory.md R60 and R61, 60_exceptions.md R286: a step runs the instruction that the frame
first presented decodes to, else the one that the command first presented decodes to, taken off
its port; with nothing presented the state stays. That a frame goes before a command is the spec's
own decision D27. -/
def Obligations.StepRunsDecoded : Prop :=
  (∀ (s : State) (item : RxItem) (rest : List RxItem), s.ports.rst = none →
    s.ports.rx = item :: rest →
      step s = exec (decodeFrame s.cfg (Frame.ofPort item.data) item.last)
        { s with ports := { s.ports with rx := rest } }) ∧
  (∀ (s : State) (w : BitVec 32) (rest : List (BitVec 32)), s.ports.rst = none → s.ports.rx = [] →
    s.ports.cmd = w :: rest →
      step s = exec (decodeCmd w) { s with ports := { s.ports with cmd := rest } }) ∧
  (∀ s : State, s.ports.rst = none → s.ports.rx = [] → s.ports.cmd = [] → step s = .next s)

/-- 70_reset_and_hazards.md R290 and R291: the reset transaction samples a well-formed `CFG`,
writes every reset value of 10_state.md R37 and puts nothing out; an ill-formed `CFG` is refused.
That a reset request goes before a frame is the model's choice (log entry 4). The values beyond
the start stage are the spec's own decision D13, the check D6 and D7. What stays on the ports is log
entry 20, the idle transients log entry 6. -/
def Obligations.StepResets : Prop :=
  ∀ (s : State) (c : Cfg), s.ports.rst = some c →
    (c.wellFormed = true →
      step s = .next
        { cfg := c
          S :=
            { stage := .detectFeatureSupport, features := {},
              cur := { common := {}, iu := {}, ctl := { temperature := 0, useControllerSensor := false } },
              chg := {}, dirty := 0, zcur := {}, zchg := {}, zdirty := 0, zoneEnabled := 0,
              zoneCommon := false, nextTok := .indoorUnit, funcq := [], lastError := false }
          work := Transients.idle
          ports := { s.ports with rst := none } }) ∧
    (c.wellFormed = false → step s = .refused .illFormedConfig)

/-- Every step keeps the invariant of the machine (Safety.lean `Inv`; its clause on the transients is
log entry 6). -/
def Obligations.InvKept : Prop :=
  ∀ s t : State, Inv s → step s = .next t → Inv t

/-- The state after reset meets the invariant (its configuration is log entry 2). -/
def Obligations.InvAtReset : Prop := Inv State.reset

/-- 30_encoding.md R102, 60_exceptions.md R272: the codes of the EVT port: every event has the code of its
kind, and what a received frame puts on the port is code 0 first, then code 2 for each stage change,
code 1 exactly where the frame gives the turn, and at most one deferred event, whose code is 3 to 7. The
codes and the place of the raw events are the spec's own decisions D26 and D32. -/
def Obligations.EventCodes : Prop :=
  (∀ (outs : List Output) (l : Frame) (st : Stage) (f : Features) (u : Cur) (code : Byte)
      (b : FunctionBody) (z : ZoneFields) (a : Addr) (m : ConfigBody) (d : BitVec 64) (x : Bool),
    evtPort (outs ++ [.evt (.rawRx l), .evt (.rawTx l), .evt (.stageChanged st f),
        .evt (.configUpdate u), .evt (.error code), .evt (.functionReceived b),
        .evt (.zoneConfigUpdate z), .evt (.remoteControllerConfig a m), .tx d, .cmdAccept x]) =
      evtPort outs ++ [(0, .rawRx l), (1, .rawTx l), (2, .stageChanged st f), (3, .configUpdate u),
        (4, .error code), (5, .functionReceived b), (6, .zoneConfigUpdate z),
        (7, .remoteControllerConfig a m)]) ∧
  ∀ (s : State) (i : Instr) (h : RxHead) (p : Packet), i.received = some (h, p) →
    ∃ t stages reply note, exec i s = .next t ∧
      (evtPort t.ports.out).map Prod.fst =
        (evtPort s.ports.out).map Prod.fst ++ 0 :: (stages ++ reply ++ note) ∧
      (∀ c ∈ stages, c = 2) ∧
      (¬ownsTurn s.cfg (tokenOf h) h.last → reply = []) ∧
      (ownsTurn s.cfg (tokenOf h) h.last → reply = [1]) ∧
      (note = [] ∨ ∃ c : BitVec 3, note = [c] ∧ 3 ≤ c.toNat)

end
end

