-- ==== Sys2Proof/Laws/Decode.lean ====
section
/-! SUPPORT. Which instructions the decoder makes: case analysis on a decoded command word and on a
decoded frame. -/

namespace Sys2Proof

/-- A decoded command word is one of the 32 command rows. -/
theorem decodeCmd_induction {P : Instr → Prop}
    (setEnabled : ∀ o v, P (.setEnabled o v))
    (setEconomy : ∀ o v, P (.setEconomy o v))
    (setTestRun : ∀ o v, P (.setTestRun o v))
    (setSetpoint : ∀ o d, P (.setSetpoint o d))
    (setMode : ∀ o m, P (.setMode o m))
    (setFanSpeed : ∀ o m, P (.setFanSpeed o m))
    (setVerticalSwing : ∀ o v, P (.setVerticalSwing o v))
    (setHorizontalSwing : ∀ o v, P (.setHorizontalSwing o v))
    (advanceVerticalLouver : ∀ o, P (.advanceVerticalLouver o))
    (advanceHorizontalLouver : ∀ o, P (.advanceHorizontalLouver o))
    (useSensor : ∀ o v, P (.useSensor o v))
    (resetFilter : ∀ o, P (.resetFilter o))
    (maintenance : ∀ o, P (.maintenance o))
    (setZone : ∀ o z v, P (.setZone o z v))
    (setZoneGroupDay : ∀ o z v, P (.setZoneGroupDay o z v))
    (setZoneGroupNight : ∀ o z v, P (.setZoneGroupNight o z v))
    (setCurrentTemperature : ∀ o t, P (.setCurrentTemperature o t))
    (queueFunction : ∀ o b, P (.queueFunction o b))
    (reinit : ∀ o, P (.reinit o))
    (undefinedOp19 : P .undefinedOp19)
    (undefinedOp20 : P .undefinedOp20)
    (undefinedOp21 : P .undefinedOp21)
    (undefinedOp22 : P .undefinedOp22)
    (undefinedOp23 : P .undefinedOp23)
    (undefinedOp24 : P .undefinedOp24)
    (undefinedOp25 : P .undefinedOp25)
    (undefinedOp26 : P .undefinedOp26)
    (undefinedOp27 : P .undefinedOp27)
    (undefinedOp28 : P .undefinedOp28)
    (undefinedOp29 : P .undefinedOp29)
    (undefinedOp30 : P .undefinedOp30)
    (undefinedOp31 : P .undefinedOp31)
    (w : BitVec 32) : P (decodeCmd w) := by
  unfold decodeCmd
  split
  · exact setEnabled _ _
  · exact setEconomy _ _
  · exact setTestRun _ _
  · exact setSetpoint _ _
  · exact setMode _ _
  · exact setFanSpeed _ _
  · exact setVerticalSwing _ _
  · exact setHorizontalSwing _ _
  · exact advanceVerticalLouver _
  · exact advanceHorizontalLouver _
  · exact useSensor _ _
  · exact resetFilter _
  · exact maintenance _
  · exact setZone _ _ _
  · exact setZoneGroupDay _ _ _
  · exact setZoneGroupNight _ _ _
  · exact setCurrentTemperature _ _
  · exact queueFunction _ _
  · exact reinit _
  · exact undefinedOp19
  · exact undefinedOp20
  · exact undefinedOp21
  · exact undefinedOp22
  · exact undefinedOp23
  · exact undefinedOp24
  · exact undefinedOp25
  · exact undefinedOp26
  · exact undefinedOp27
  · exact undefinedOp28
  · exact undefinedOp29
  · exact undefinedOp30
  · exact undefinedOp31

/-- A decoded frame is one of the 17 rows of received frames. -/
theorem decodeFrame_induction {P : Instr → Prop}
    (received : ∀ i h p, i.received = some (h, p) → P i)
    (c : Cfg) (w : Frame) (last : Bool) : P (decodeFrame c w last) := by
  unfold decodeFrame decodeLogicalFrame
  simp only
  split <;> (try split) <;> exact received _ _ _ rfl

end Sys2Proof
end

