-- ==== Sys2Proof/Laws/Command.lean ====
section
/-! SUPPORT. The fields of a command word that was put together from its parts (30_encoding.md R100). -/

namespace Sys2Proof

/-- A bit of a command word is one of its four parts'. -/
theorem cmdWord_getLsbD (o : Bool) (op : BitVec 5) (arg : BitVec 24) (k : Nat) :
    (cmdWord o op arg).getLsbD k =
      if k < 24 then arg.getLsbD k
      else if k < 29 then op.getLsbD (k - 24)
      else decide (k = 31) && o := by
  unfold cmdWord
  simp only [BitVec.getLsbD_append, BitVec.getLsbD_ofBool, BitVec.getLsbD_zero]
  by_cases h1 : k < 24
  · simp [h1]
  by_cases h2 : k < 29
  · simp [h1, h2, show k - 24 < 5 by omega]
  by_cases h3 : k = 31
  · subst h3; simp
  · simp only [h1, h2, if_false, h3, decide_false, Bool.false_and, show ¬k - 24 < 5 by omega]
    split
    · rfl
    · rw [show decide (k - 24 - 5 - 2 = 0) = false by simp; omega]
      rfl

@[simp] theorem cmdOverride_cmdWord (o : Bool) (op : BitVec 5) (arg : BitVec 24) :
    cmdOverride (cmdWord o op arg) = o := by
  rw [cmdOverride, cmdWord_getLsbD]
  simp

@[simp] theorem cmdOp_cmdWord (o : Bool) (op : BitVec 5) (arg : BitVec 24) :
    cmdOp (cmdWord o op arg) = op := by
  apply BitVec.eq_of_getLsbD_eq
  intro i hi
  simp [cmdOp, cmdWord_getLsbD, hi, show 24 + i < 29 by omega]

/-- The low bits of the word are those of `arg`. -/
theorem extract_cmdWord (o : Bool) (op : BitVec 5) (arg : BitVec 24) (st m : Nat)
    (h : st + m ≤ 24) : (cmdWord o op arg).extractLsb' st m = arg.extractLsb' st m := by
  apply BitVec.eq_of_getLsbD_eq
  intro i hi
  simp [cmdWord_getLsbD, hi, show st + i < 24 by omega]

@[simp] theorem argFlag_cmdWord (o : Bool) (op : BitVec 5) (v : Bool) :
    argFlag (cmdWord o op (flagArg v)) = v := by
  rw [argFlag, cmdWord_getLsbD]
  cases v <;> simp [flagArg]

@[simp] theorem argDegrees_cmdWord (o : Bool) (op : BitVec 5) (d : BitVec 8) :
    argDegrees (cmdWord o op (d.setWidth 24)) = d := by
  rw [argDegrees, extract_cmdWord _ _ _ _ _ (by omega)]
  apply BitVec.eq_of_getLsbD_eq
  intro i hi
  simp [hi]; omega

@[simp] theorem argCode_cmdWord (o : Bool) (op : BitVec 5) (m : BitVec 3) :
    argCode (cmdWord o op (m.setWidth 24)) = m := by
  rw [argCode, extract_cmdWord _ _ _ _ _ (by omega)]
  apply BitVec.eq_of_getLsbD_eq
  intro i hi
  simp [hi]; omega

@[simp] theorem argTemperature_cmdWord (o : Bool) (op : BitVec 5) (t : BitVec 16) :
    argTemperature (cmdWord o op (t.setWidth 24)) = t := by
  rw [argTemperature, extract_cmdWord _ _ _ _ _ (by omega)]
  apply BitVec.eq_of_getLsbD_eq
  intro i hi
  simp [hi]; omega

@[simp] theorem argZone_cmdWord (o : Bool) (op : BitVec 5) (z : BitVec 4) (v : Bool) :
    argZone (cmdWord o op (zoneArg z v)) = z := by
  rw [argZone, extract_cmdWord _ _ _ _ _ (by omega)]
  apply BitVec.eq_of_getLsbD_eq
  intro i hi
  simp only [BitVec.getLsbD_extractLsb', hi, decide_true, Bool.true_and, Nat.zero_add, zoneArg,
    BitVec.getLsbD_append, if_true]

@[simp] theorem argZoneValue_cmdWord (o : Bool) (op : BitVec 5) (z : BitVec 4) (v : Bool) :
    argZoneValue (cmdWord o op (zoneArg z v)) = v := by
  rw [argZoneValue, cmdWord_getLsbD]
  simp only [zoneArg, BitVec.getLsbD_append]
  simp

@[simp] theorem argFunction_cmdWord (o : Bool) (op : BitVec 5) (b : FunctionBody) :
    argFunction (cmdWord o op (functionArg b)) = b := by
  obtain ⟨id, value, unit⟩ := b
  simp only [argFunction, FunctionBody.mk.injEq]
  refine ⟨?_, ?_, ?_⟩ <;> rw [extract_cmdWord _ _ _ _ _ (by omega)] <;>
    apply BitVec.eq_of_getLsbD_eq <;> intro i hi <;>
    simp only [BitVec.getLsbD_extractLsb', hi, decide_true, Bool.true_and, functionArg,
      BitVec.getLsbD_append]
  · simp [hi]
  · rw [if_neg (by omega), if_pos (by omega)]
    congr 1; omega
  · rw [if_neg (by omega), if_neg (by omega), if_pos (by omega)]
    congr 1; omega

end Sys2Proof
end

