-- ==== Sys2Proof/Laws/Frame.lean ====
section
/-! SUPPORT. The frame as eight lanes: reading after writing, the bytewise operations, the port vector,
and the field load and store bit by bit. -/

namespace Sys2Proof

/-- Two frames with the same lanes are equal. -/
theorem Frame.ext_lane {f g : Frame} (h : ∀ k, k ≤ 7 → f.lane k = g.lane k) : f = g := by
  obtain ⟨f0, f1, f2, f3, f4, f5, f6, f7⟩ := f
  obtain ⟨g0, g1, g2, g3, g4, g5, g6, g7⟩ := g
  simp only [Frame.mk.injEq]
  exact ⟨h 0 (by decide), h 1 (by decide), h 2 (by decide), h 3 (by decide), h 4 (by decide),
    h 5 (by decide), h 6 (by decide), h 7 (by decide)⟩

/-- There is no lane above 7. -/
theorem Frame.lane_of_gt (f : Frame) {k : Nat} (h : 7 < k) : f.lane k = 0 := by
  unfold Frame.lane
  split <;> first | omega | rfl

/-- A lane read after a lane written. -/
theorem Frame.lane_setLane (f : Frame) (i j : Nat) (v : Byte) :
    (f.setLane i v).lane j = if j = i ∧ i ≤ 7 then v else f.lane j := by
  by_cases hi : 7 < i
  · have : f.setLane i v = f := by
      unfold Frame.setLane
      split <;> first | omega | rfl
    rw [this, if_neg (by omega)]
  · by_cases hj : 7 < j
    · rw [Frame.lane_of_gt _ hj, Frame.lane_of_gt _ hj, if_neg (by omega)]
    · have hi' : i < 8 := by omega
      have hj' : j < 8 := by omega
      clear hi hj
      interval_cases i <;> interval_cases j <;> rfl

@[simp] theorem Frame.lane_zero (k : Nat) : Frame.zero.lane k = 0 := by
  by_cases h : 7 < k
  · exact Frame.lane_of_gt _ h
  · have h : k < 8 := by omega
    interval_cases k <;> rfl

@[simp] theorem Frame.lane_or (f g : Frame) (k : Nat) : (f.or g).lane k = f.lane k ||| g.lane k := by
  by_cases h : 7 < k
  · simp [Frame.lane_of_gt _ h]
  · have h : k < 8 := by omega
    interval_cases k <;> rfl

@[simp] theorem Frame.lane_and (f g : Frame) (k : Nat) :
    (f.and g).lane k = f.lane k &&& g.lane k := by
  by_cases h : 7 < k
  · simp [Frame.lane_of_gt _ h]
  · have h : k < 8 := by omega
    interval_cases k <;> rfl

theorem Frame.lane_invert (f : Frame) {k : Nat} (h : k ≤ 7) :
    (invertFrame f).lane k = ~~~(f.lane k) := by
  have h : k < 8 := by omega
  interval_cases k <;> rfl

/-- 40_codec_primitives.md R110: `INVERT` is its own inverse. -/
@[simp] theorem invertFrame_invertFrame (f : Frame) : invertFrame (invertFrame f) = f := by
  simp [invertFrame]

/-- The port vector holds the frame (00_scope.md R8). -/
@[simp] theorem Frame.ofPort_toPort (f : Frame) : Frame.ofPort f.toPort = f := by
  obtain ⟨f0, f1, f2, f3, f4, f5, f6, f7⟩ := f
  simp only [Frame.ofPort, Frame.toPort, Frame.mk.injEq]
  refine ⟨?_, ?_, ?_, ?_, ?_, ?_, ?_, ?_⟩ <;> apply BitVec.eq_of_getLsbD_eq <;> intro i hi <;>
    simp only [BitVec.getLsbD_extractLsb', hi, decide_true, Bool.true_and, BitVec.getLsbD_append] <;>
    (repeat (first | rw [if_pos (by omega)] | rw [if_neg (by omega)])) <;> congr 1 <;> omega

/-- Every port vector is that of its frame. -/
@[simp] theorem Frame.toPort_ofPort (d : BitVec 64) : (Frame.ofPort d).toPort = d := by
  apply BitVec.eq_of_getLsbD_eq
  intro i hi
  simp only [Frame.toPort, Frame.ofPort, BitVec.getLsbD_append, BitVec.getLsbD_extractLsb']
  split
  · rename_i h; simp [h]
  split
  · rename_i h1 h2; simp only [h2, decide_true, Bool.true_and]; congr 1; omega
  split
  · rename_i h1 h2 h3; simp only [h3, decide_true, Bool.true_and]; congr 1; omega
  split
  · rename_i h1 h2 h3 h4; simp only [h4, decide_true, Bool.true_and]; congr 1; omega
  split
  · rename_i h1 h2 h3 h4 h5; simp only [h5, decide_true, Bool.true_and]; congr 1; omega
  split
  · rename_i h1 h2 h3 h4 h5 h6; simp only [h6, decide_true, Bool.true_and]; congr 1; omega
  split
  · rename_i h1 h2 h3 h4 h5 h6 h7; simp only [h7, decide_true, Bool.true_and]; congr 1; omega
  · rename_i h1 h2 h3 h4 h5 h6 h7
    rw [show decide (i - 8 - 8 - 8 - 8 - 8 - 8 - 8 < 8) = true by simp; omega]
    simp only [Bool.true_and]; congr 1; omega

/-- What a field store ORs into its byte (40_codec_primitives.md R112). -/
def storedBits (d : Descriptor) (v : BitVec 16) : Byte := (v <<< d.shift).setWidth 8 &&& d.mask

/-- The field store, lane by lane. -/
theorem lane_setFieldOf (d : Descriptor) (f : Frame) (v : BitVec 16) (k : Nat) :
    (setFieldOf d f v).lane k =
      f.lane k ||| if k = d.byte ∧ d.byte ≤ 7 then storedBits d v else 0 := by
  unfold setFieldOf storedBits
  rw [Frame.lane_setLane]
  split
  · rename_i h; rw [h.1]
  · simp

/-- A contiguous mask, bit by bit. -/
theorem bitRun_getLsbD {n s : Nat} (h : n + s ≤ 8) (b : Nat) :
    (bitRun n s).getLsbD b = decide (s ≤ b ∧ b < s + n) := by
  by_cases hb : b < 8
  · have hn : n < 9 := by omega
    have hs : s < 9 := by omega
    have : ∀ n < 9, ∀ s < 9, ∀ b < 8, n + s ≤ 8 →
        (bitRun n s).getLsbD b = decide (s ≤ b ∧ b < s + n) := by decide
    exact this n hn s hs b hb h
  · rw [BitVec.getLsbD_of_ge _ _ (by omega)]
    symm
    simp
    omega

/-- A well-formed mask is a run of as many bits as it has. -/
theorem maskOk_iff (d : Descriptor) (h : d.maskOk = true) :
    1 ≤ popCount d.mask ∧ popCount d.mask + d.shift ≤ 8 ∧
      d.mask = bitRun (popCount d.mask) d.shift := by
  simp only [Descriptor.maskOk, List.any_eq_true, Bool.and_eq_true, decide_eq_true_eq,
    beq_iff_eq] at h
  obtain ⟨n, hn, hle, hm⟩ := h
  have hs : d.shift < 8 := by
    simp at hn; omega
  have hn9 : n < 9 := by simp at hn; omega
  have hn1 : 1 ≤ n := by simp at hn; omega
  have : ∀ n < 9, ∀ s < 8, n + s ≤ 8 → popCount (bitRun n s) = n := by decide
  have hp : popCount d.mask = n := by rw [hm]; exact this n hn9 d.shift hs hle
  rw [hp]
  exact ⟨hn1, hle, hm⟩

/-- The bits of a well-formed descriptor's mask. -/
theorem mask_getLsbD (d : Descriptor) (h : d.maskOk = true) (b : Nat) :
    d.mask.getLsbD b = decide (d.shift ≤ b ∧ b < d.shift + popCount d.mask) := by
  obtain ⟨_, h2, h3⟩ := maskOk_iff d h
  conv_lhs => rw [h3]
  exact bitRun_getLsbD h2 b

/-- The field load, bit by bit (40_codec_primitives.md R111). -/
theorem getFieldOf_getLsbD (d : Descriptor) (h : d.maskOk = true) (f : Frame) (b : Nat) :
    (getFieldOf d f).getLsbD b =
      (decide (b < popCount d.mask) && (f.lane d.byte).getLsbD (d.shift + b)) := by
  unfold getFieldOf
  rw [BitVec.getLsbD_ushiftRight, BitVec.getLsbD_and, mask_getLsbD d h, Bool.and_comm]
  congr 1
  simp

/-- A loaded field has no bit above the width (40_codec_primitives.md R111). -/
theorem getFieldOf_lt (d : Descriptor) (h : d.maskOk = true) (f : Frame) :
    (getFieldOf d f).toNat < 2 ^ popCount d.mask := by
  apply Nat.lt_pow_two_of_testBit
  intro i hi
  have := getFieldOf_getLsbD d h f i
  rw [show decide (i < popCount d.mask) = false by simp; omega, Bool.false_and] at this
  exact this

end Sys2Proof
end

