-- ==== Sys2Proof/Laws/Codec.lean ====
section
/-! SUPPORT. What DECODE and ENCODE do to a frame under a well-formed configuration: which bits an
encoded packet has, and which bits a decoded packet depends on. -/

namespace Sys2Proof

/-! What a well-formed configuration gives. -/

theorem Cfg.wellFormed_layout {c : Cfg} (h : c.wellFormed = true) (v : Variant) (k : Kind) :
    c.layout.kindOk v k = true := by
  simp only [Cfg.wellFormed, Bool.and_eq_true, Layout.wellFormed, fieldKinds, List.all_cons,
    List.all_nil] at h
  obtain ⟨⟨⟨⟨⟨hl, hz⟩, _⟩, _⟩, _⟩, _⟩ := h
  cases v <;> cases k <;>
    first
    | exact hl.1 | exact hl.2.1 | exact hl.2.2.1 | exact hl.2.2.2.1 | exact hl.2.2.2.2.1
    | exact hl.2.2.2.2.2.1 | exact hl.2.2.2.2.2.2.1 | exact hl.2.2.2.2.2.2.2.1
    | exact hz.1 | exact hz.2.1 | exact hz.2.2.1 | exact hz.2.2.2.1 | exact hz.2.2.2.2.1
    | exact hz.2.2.2.2.2.1 | exact hz.2.2.2.2.2.2.1 | exact hz.2.2.2.2.2.2.2.1
    | (cases hr : c.layout; rfl)

/-- 30_encoding.md R77 items 1 to 4 for one field. -/
theorem Cfg.wellFormed_field {c : Cfg} (h : c.wellFormed = true) {v : Variant} {k : Kind}
    {f : FieldName} (hf : f ∈ fieldsOf v k) :
    (c.layout.get v k f).byte ≤ 7 ∧ (c.layout.get v k f).maskOk = true ∧
      popCount (c.layout.get v k f).mask = fieldWidth v f ∧
      (c.layout.get v k f).headerFree = true := by
  have hk := Cfg.wellFormed_layout h v k
  simp only [Layout.kindOk, Bool.and_eq_true, List.all_eq_true, Descriptor.byteOk,
    decide_eq_true_eq, Descriptor.widthOk, beq_iff_eq] at hk
  obtain ⟨⟨⟨h1, h2⟩, h3⟩, h4⟩ := hk.1.2 f hf
  exact ⟨h1, h2, h3, h4⟩

/-- No field name stands twice in the list of a kind. -/
theorem fieldsOf_nodup (v : Variant) (k : Kind) : (fieldsOf v k).Nodup := by
  cases v <;> cases k <;> decide

theorem pairwise_of_pairwiseDisjoint {l : List Descriptor} (h : pairwiseDisjoint l = true) :
    l.Pairwise fun d e => d.disjoint e = true := by
  induction l with
  | nil => exact List.Pairwise.nil
  | cons d l ih =>
    simp only [pairwiseDisjoint, Bool.and_eq_true, List.all_eq_true] at h
    exact List.Pairwise.cons h.1 (ih h.2)

/-- Two disjoint descriptors of one byte have no bit of it in common. -/
theorem Descriptor.disjoint_bit {d e : Descriptor} (h : d.disjoint e = true) (hb : d.byte = e.byte)
    (b : Nat) : (d.mask.getLsbD b && e.mask.getLsbD b) = false := by
  simp only [Descriptor.disjoint, hb, beq_self_eq_true, Bool.not_true, Bool.false_or,
    beq_iff_eq] at h
  rw [← BitVec.getLsbD_and, h]
  exact BitVec.getLsbD_zero

/-- 30_encoding.md R77 item 5: two fields of a kind share no bit. -/
theorem Cfg.wellFormed_disjoint {c : Cfg} (h : c.wellFormed = true) {v : Variant} {k : Kind}
    {f g : FieldName} (hf : f ∈ fieldsOf v k) (hg : g ∈ fieldsOf v k) (hne : f ≠ g)
    (hb : (c.layout.get v k f).byte = (c.layout.get v k g).byte) (b : Nat) :
    ((c.layout.get v k f).mask.getLsbD b && (c.layout.get v k g).mask.getLsbD b) = false := by
  have hk := Cfg.wellFormed_layout h v k
  simp only [Layout.kindOk, Bool.and_eq_true] at hk
  have hp := pairwise_of_pairwiseDisjoint hk.2
  rw [List.pairwise_map] at hp
  let R := fun f g : FieldName => f ≠ g →
    (c.layout.get v k f).byte = (c.layout.get v k g).byte →
      ((c.layout.get v k f).mask.getLsbD b && (c.layout.get v k g).mask.getLsbD b) = false
  have hs : Std.Symm R := ⟨fun f g hfg hn hb => by rw [Bool.and_comm]; exact hfg hn.symm hb.symm⟩
  have key : ∀ ⦃f⦄, f ∈ fieldsOf v k → ∀ ⦃g⦄, g ∈ fieldsOf v k → R f g :=
    List.Pairwise.forall_of_forall (fun f _ hn => absurd rfl hn)
      (hp.imp (S := R) fun hd _ hb => Descriptor.disjoint_bit hd hb b)
  exact key hf hg hne hb

/-- 30_encoding.md R92 for every entry of `CFG.FIXUP`. -/
theorem Cfg.wellFormed_fixup {c : Cfg} (h : c.wellFormed = true) (code : BitVec 3) (role : Role) :
    c.fixupEntryOk c.variant code role = true := by
  simp only [Cfg.wellFormed, Bool.and_eq_true, Cfg.fixupOk, List.all_eq_true] at h
  have h' := h.1.1.1.2 c.variant (by cases c.variant <;> simp) role (by cases role <;> simp)
  have hc : ∀ x : BitVec 3, x ∈ [0#3, 1#3, 2#3, 3#3, 4#3, 5#3, 6#3, 7#3] := by decide
  exact h' code (hc code)

/-! Encoding, bit by bit. -/

/-- The header fields of a packet in a zero buffer (30_encoding.md R71). -/
def headerFrame (p : Packet) : Frame :=
  setFieldOf hdrType (encodeAddresses p Frame.zero) (p.typeCode.setWidth 16)

/-- Storing a list of fields, bit by bit. -/
theorem storeFields_getLsbD (g : FieldName → Descriptor) (v : FieldName → BitVec 16)
    (l : List FieldName) (buf : Frame) (k b : Nat) :
    ((l.foldl (fun acc f => setFieldOf (g f) acc (v f)) buf).lane k).getLsbD b =
      ((buf.lane k).getLsbD b || l.any fun f =>
        decide (k = (g f).byte ∧ (g f).byte ≤ 7) && (storedBits (g f) (v f)).getLsbD b) := by
  induction l generalizing buf with
  | nil => simp
  | cons f l ih =>
    rw [List.foldl_cons, ih, lane_setFieldOf, BitVec.getLsbD_or, List.any_cons, Bool.or_assoc]
    congr 2
    split
    · rename_i h; simp [h]
    · rename_i h; simp [h]

/-- The bits a kind covers, bit by bit. -/
theorem coveredBits_getLsbD (c : Cfg) (kind : Kind) (k b : Nat) :
    ((coveredBits c kind).lane k).getLsbD b =
      (((Frame.mk 0x2F 0x2F 0x70 0 0 0 0 0).lane k).getLsbD b ||
        (fieldsOf c.variant kind).any fun f =>
          decide (k = (c.layout.get c.variant kind f).byte ∧
            (c.layout.get c.variant kind f).byte ≤ 7) &&
            (c.layout.get c.variant kind f).mask.getLsbD b) := by
  unfold coveredBits
  generalize Frame.mk 0x2F 0x2F 0x70 0 0 0 0 0 = buf
  generalize fieldsOf c.variant kind = l
  induction l generalizing buf with
  | nil => simp
  | cons f l ih =>
    rw [List.foldl_cons, ih, Frame.lane_setLane, List.any_cons, ← Bool.or_assoc]
    congr 1
    split
    · rename_i h; simp [h]
    · rename_i h; simp [h]

/-- The frame of a packet's fields, bit by bit. -/
theorem frameFields_getLsbD (c : Cfg) (p : Packet) (k b : Nat) :
    ((frameFields c p).lane k).getLsbD b =
      (((headerFrame p).lane k).getLsbD b ||
        (fieldsOf c.variant (packetKind c p)).any fun f =>
          decide (k = (c.layout.get c.variant (packetKind c p) f).byte ∧
            (c.layout.get c.variant (packetKind c p) f).byte ≤ 7) &&
            (storedBits (c.layout.get c.variant (packetKind c p) f)
              (fieldValue c.variant p.body f)).getLsbD b) :=
  storeFields_getLsbD _ _ _ _ _ _

/-- 41_codec_frames.md R131: an encoded packet is its fields, the universal bit and the fixups. -/
theorem encodeLogicalOf_eq (c : Cfg) (p : Packet) :
    encodeLogicalOf c p =
      ((frameFields c p).or { b1 := 0x80 }).or (c.fixupOf p.typeCode p.src.role) := by
  apply Frame.ext_lane
  intro k hk
  apply BitVec.eq_of_getLsbD_eq
  intro b _
  rw [Frame.lane_or, Frame.lane_or, BitVec.getLsbD_or, BitVec.getLsbD_or, frameFields_getLsbD]
  unfold encodeLogicalOf
  simp only
  rw [Frame.lane_or, BitVec.getLsbD_or, encodeBody, storeFields_getLsbD]
  congr 1
  rw [Bool.or_right_comm]
  congr 1
  rw [headerFrame, lane_setFieldOf, lane_setFieldOf, Frame.lane_setLane, BitVec.getLsbD_or,
    BitVec.getLsbD_or, Bool.or_right_comm]
  congr 1
  have hk' : k < 8 := by omega
  by_cases h1 : k = 1
  · subst h1; simp [Frame.lane]
  · rw [if_neg (by omega)]
    have : (({ b1 := 0x80 } : Frame).lane k) = 0 := by
      interval_cases k <;> first | rfl | omega
    rw [this]
    simp

/-! The header and the fields do not touch. -/

/-- The bits of the header (30_encoding.md R71). -/
def headerBits : Frame := { b0 := 0x2F, b1 := 0x2F, b2 := 0x70 }

theorem headerFrame_lane (p : Packet) (k : Nat) :
    (headerFrame p).lane k =
      match k with
      | 0 => storedBits hdrSourceType (p.src.role.bit.setWidth 16) |||
          storedBits hdrSourceAddress (p.src.addr.setWidth 16)
      | 1 => storedBits hdrTokenType (p.tok.role.bit.setWidth 16) |||
          storedBits hdrTokenAddress (p.tok.addr.setWidth 16)
      | 2 => storedBits hdrType (p.typeCode.setWidth 16)
      | _ => 0 := by
  unfold headerFrame encodeAddresses
  simp only [lane_setFieldOf, Frame.lane_zero]
  rcases k with _ | _ | _ | k <;>
    simp [hdrType, hdrTokenAddress, hdrTokenType, hdrSourceAddress, hdrSourceType]

/-- The header is written inside its own bits. -/
theorem headerFrame_and (p : Packet) (k : Nat) :
    (headerFrame p).lane k &&& headerBits.lane k = (headerFrame p).lane k := by
  rw [headerFrame_lane]
  split
  · simp only [storedBits, hdrSourceType, hdrSourceAddress, headerBits, Frame.lane]
    ext i hi
    simp only [BitVec.getElem_and, BitVec.getElem_or]
    interval_cases i <;> simp
  · simp only [storedBits, hdrTokenType, hdrTokenAddress, headerBits, Frame.lane]
    ext i hi
    simp only [BitVec.getElem_and, BitVec.getElem_or]
    interval_cases i <;> simp
  · simp only [storedBits, hdrType, headerBits, Frame.lane]
    ext i hi
    simp only [BitVec.getElem_and]
    interval_cases i <;> simp
  · simp

/-- A descriptor that touches no header bit. -/
theorem Descriptor.headerFree_bit {d : Descriptor} (h : d.headerFree = true) (b : Nat) :
    ((headerBits.lane d.byte).getLsbD b && d.mask.getLsbD b) = false := by
  simp only [Descriptor.headerFree, Bool.and_eq_true, Bool.not_eq_true', beq_eq_false_iff_ne,
    Bool.or_eq_true, beq_iff_eq] at h
  obtain ⟨⟨h0, h1⟩, h2⟩ := h
  rw [← BitVec.getLsbD_and]
  rcases h2 with h2 | h2
  · have : headerBits.lane d.byte = 0 := by
      by_cases h7 : 7 < d.byte
      · exact Frame.lane_of_gt _ h7
      · have h7 : d.byte < 8 := by omega
        generalize d.byte = k at h0 h1 h2 h7
        interval_cases k <;> first | rfl | contradiction
    simp [this]
  · by_cases hb : d.byte = 2
    · rw [hb, BitVec.and_comm]
      show (d.mask &&& 0x70).getLsbD b = false
      rw [h2]; simp
    · have : headerBits.lane d.byte = 0 := by
        by_cases h7 : 7 < d.byte
        · exact Frame.lane_of_gt _ h7
        · have h7 : d.byte < 8 := by omega
          generalize d.byte = k at h0 h1 hb h7
          interval_cases k <;> first | rfl | contradiction
      simp [this]

/-- A header bit of a packet at a place of a field is 0. -/
theorem headerFrame_field_bit {d : Descriptor} (h : d.headerFree = true) (p : Packet) {b : Nat}
    (hb : d.mask.getLsbD b = true) : ((headerFrame p).lane d.byte).getLsbD b = false := by
  have h1 := Descriptor.headerFree_bit h b
  rw [hb, Bool.and_true] at h1
  rw [← headerFrame_and, BitVec.getLsbD_and, h1, Bool.and_false]

/-- The bits stored for a field, bit by bit. -/
theorem storedBits_getLsbD (d : Descriptor) (v : BitVec 16) (b : Nat) :
    (storedBits d v).getLsbD b =
      (decide (d.shift ≤ b) && v.getLsbD (b - d.shift) && d.mask.getLsbD b) := by
  unfold storedBits
  rw [BitVec.getLsbD_and, BitVec.getLsbD_setWidth, BitVec.getLsbD_shiftLeft]
  by_cases hb : b < 8
  · by_cases hs : d.shift ≤ b
    · simp [hb, hs, show b < 16 by omega, show ¬b < d.shift by omega]
    · simp [hb, hs, show b < d.shift by omega]
  · rw [BitVec.getLsbD_of_ge d.mask b (by omega)]
    simp

/-- A field's bits in the frame of a packet's fields are those stored for it, under a well-formed
configuration. -/
theorem frameFields_field_bit {c : Cfg} (h : c.wellFormed = true) (p : Packet) {n : FieldName}
    (hn : n ∈ fieldsOf c.variant (packetKind c p)) {b : Nat}
    (hb : (c.layout.get c.variant (packetKind c p) n).mask.getLsbD b = true) :
    ((frameFields c p).lane (c.layout.get c.variant (packetKind c p) n).byte).getLsbD b =
      (storedBits (c.layout.get c.variant (packetKind c p) n)
        (fieldValue c.variant p.body n)).getLsbD b := by
  obtain ⟨h7, _, _, hfree⟩ := Cfg.wellFormed_field h hn
  rw [frameFields_getLsbD, headerFrame_field_bit hfree p hb, Bool.false_or]
  rw [Bool.eq_iff_iff, List.any_eq_true]
  constructor
  · rintro ⟨m, hm, hx⟩
    simp only [Bool.and_eq_true, decide_eq_true_eq] at hx
    by_cases hmn : n = m
    · subst hmn; exact hx.2
    · have hd := Cfg.wellFormed_disjoint h hn hm hmn hx.1.1 b
      have hs := hx.2
      rw [storedBits_getLsbD] at hs
      simp only [Bool.and_eq_true] at hs
      rw [hb, hs.2] at hd
      simp at hd
  · intro hx
    exact ⟨n, hn, by simp [h7, hx]⟩

/-- A field loaded from the frame of a packet's fields is the value stored, cut to the field's width
(40_codec_primitives.md R112). -/
theorem getField_frameFields {c : Cfg} (h : c.wellFormed = true) (p : Packet) {n : FieldName}
    (hn : n ∈ fieldsOf c.variant (packetKind c p)) (b : Nat) :
    (getFieldOf (c.layout.get c.variant (packetKind c p) n) (frameFields c p)).getLsbD b =
      (decide (b < fieldWidth c.variant n) && (fieldValue c.variant p.body n).getLsbD b) := by
  obtain ⟨_, hm, hw, _⟩ := Cfg.wellFormed_field h hn
  rw [getFieldOf_getLsbD _ hm, hw]
  by_cases hb : b < fieldWidth c.variant n
  · have hmask : (c.layout.get c.variant (packetKind c p) n).mask.getLsbD
        ((c.layout.get c.variant (packetKind c p) n).shift + b) = true := by
      rw [mask_getLsbD _ hm, hw]; simp; omega
    rw [frameFields_field_bit h p hn hmask, storedBits_getLsbD, hmask]
    simp
  · simp [hb]

/-! What decoding reads. -/

/-- A field's load depends on the covered bits only. -/
theorem getField_and_covered (c : Cfg) (kind : Kind) {n : FieldName}
    (hn : n ∈ fieldsOf c.variant kind) (f : Frame) :
    getFieldOf (c.layout.get c.variant kind n) (f.and (coveredBits c kind)) =
      getFieldOf (c.layout.get c.variant kind n) f := by
  unfold getFieldOf
  congr 1
  apply BitVec.eq_of_getLsbD_eq
  intro b _
  rw [Frame.lane_and, BitVec.getLsbD_and, BitVec.getLsbD_and, BitVec.getLsbD_and]
  by_cases h7 : (c.layout.get c.variant kind n).byte ≤ 7
  · by_cases hb : (c.layout.get c.variant kind n).mask.getLsbD b = true
    · rw [coveredBits_getLsbD, hb]
      have : ((fieldsOf c.variant kind).any fun f =>
          decide ((c.layout.get c.variant kind n).byte = (c.layout.get c.variant kind f).byte ∧
            (c.layout.get c.variant kind f).byte ≤ 7) &&
            (c.layout.get c.variant kind f).mask.getLsbD b) = true := by
        rw [List.any_eq_true]
        exact ⟨n, hn, by simp [h7, hb]⟩
      rw [this]; simp
    · simp [hb]
  · rw [Frame.lane_of_gt _ (by omega)]
    simp

/-- A header field's load depends on the covered bits only. -/
theorem getHeader_and_covered (c : Cfg) (kind : Kind) {d : Descriptor} (hd : d ∈ hdrDescriptors)
    (f : Frame) : getFieldOf d (f.and (coveredBits c kind)) = getFieldOf d f := by
  unfold getFieldOf
  congr 1
  apply BitVec.eq_of_getLsbD_eq
  intro b _
  rw [Frame.lane_and, BitVec.getLsbD_and, BitVec.getLsbD_and, BitVec.getLsbD_and,
    coveredBits_getLsbD]
  have : d.mask.getLsbD b = true →
      ((Frame.mk 0x2F 0x2F 0x70 0 0 0 0 0).lane d.byte).getLsbD b = true := by
    simp only [hdrDescriptors, List.mem_cons, List.mem_nil_iff, or_false] at hd
    rename_i hb
    rcases hd with rfl | rfl | rfl | rfl | rfl <;>
      (revert hb; revert b; decide)
  by_cases hb : d.mask.getLsbD b = true
  · rw [this hb]; simp
  · simp [hb]

/-- The zone kinds are selected in the Zoned variant only (30_encoding.md R74). -/
theorem kindOf_zoned {v : Variant} {code : BitVec 3} {role : Role} {k : Kind}
    (h : kindOf v code role = k)
    (hz : k = .zoneConfigIU ∨ k = .zoneConfigC ∨ k = .zoneFunctionIU ∨ k = .zoneFunctionC) :
    v = .zoned := by
  cases v
  · subst h
    exfalso
    revert hz
    unfold kindOf
    split <;> (try split) <;> first | contradiction | simp
  · rfl

/-- The body of a packet is decoded from the fields of its kind. -/
theorem decodeBody_congr {c : Cfg} {code : BitVec 3} {role : Role} {f g : Frame}
    (h : ∀ n ∈ fieldsOf c.variant (kindOf c.variant code role),
      getFieldOf (c.layout.get c.variant (kindOf c.variant code role) n) f =
        getFieldOf (c.layout.get c.variant (kindOf c.variant code role) n) g) :
    decodeBody c (kindOf c.variant code role) f = decodeBody c (kindOf c.variant code role) g := by
  generalize hk : kindOf c.variant code role = k at h
  have hz := kindOf_zoned (v := c.variant) (code := code) (role := role) (k := k) hk
  clear hk
  cases k <;> simp only [decodeBody]
  case configIU =>
    simp only [fieldsOf, commonFields, iuFields, List.cons_append, List.nil_append,
      List.forall_mem_cons] at h
    simp only [decodeCommon, decodeIU, getFlag, getBits, h]
  case configC =>
    simp only [fieldsOf, commonFields, ctlFields, List.cons_append, List.nil_append,
      List.forall_mem_cons] at h
    simp only [decodeCommon, decodeCtl, getFlag, getBits, h]
  case error =>
    simp only [fieldsOf, List.forall_mem_cons] at h
    simp only [decodeCode, getBits, h]
  case features =>
    simp only [decodeFeatures, getFlag]
    cases hv : c.variant <;> rw [hv] at h <;>
      simp only [fieldsOf, featureFields, List.cons_append, List.nil_append,
        List.forall_mem_cons] at h <;>
      simp only [h]
  case function =>
    simp only [fieldsOf, List.forall_mem_cons] at h
    simp only [decodeFunction, getBits, h]
  case zoneConfigIU =>
    have hv := hz (by simp)
    simp only [hv, fieldsOf, zoneFieldNames, List.forall_mem_cons] at h
    simp only [hv, decodeZones, getFlag, getBits, h]
  case zoneConfigC =>
    have hv := hz (by simp)
    simp only [hv, fieldsOf, zoneFieldNames, List.cons_append, List.nil_append,
      List.forall_mem_cons] at h
    simp only [hv, decodeZones, getFlag, getBits, h]
  case zoneFunctionIU =>
    have hv := hz (by simp)
    simp only [hv, fieldsOf, List.forall_mem_cons] at h
    simp only [hv, decodeZoneFunction, getFlag, getBits, h]

end Sys2Proof
end

