-- ==== Sys2Proof/Laws/Kind.lean ====
section
/-! SUPPORT. The kind table (30_encoding.md R74): what the decoder computes is what the table says. -/

namespace Sys2Proof.Machine

/-- The kind of a (variant, type code, role) is the one of the table. -/
theorem isKind_iff (v : Variant) (code : BitVec 3) (role : Role) (k : Kind) :
    isKind v code role k ↔ kindOf v code role = k := by
  have h : code = 0 ∨ code = 1 ∨ code = 2 ∨ code = 3 ∨ code = 4 ∨ code = 5 ∨ code = 6 ∨ code = 7 := by
    revert code; decide
  rcases h with rfl | rfl | rfl | rfl | rfl | rfl | rfl | rfl <;>
    cases v <;> cases role <;> cases k <;> simp [isKind, kindOf]

/-- Every (variant, type code, role) has a kind. -/
theorem exists_isKind (v : Variant) (code : BitVec 3) (role : Role) : ∃ k, isKind v code role k :=
  ⟨_, (isKind_iff v code role _).2 rfl⟩

end Sys2Proof.Machine
end

