-- ==== Sys2Proof/Laws/State.lean ====
section
/-! SUPPORT. What each update of the state does to each part of it: one lemma for each update and field. -/

namespace Sys2Proof.Machine

/-! `State.withS` -/

@[simp] theorem State.withS_cfg (s : State) (f : Session → Session) :
    (s.withS f).cfg = s.cfg := rfl

@[simp] theorem State.withS_S (s : State) (f : Session → Session) :
    (s.withS f).S = f s.S := rfl

@[simp] theorem State.withS_work (s : State) (f : Session → Session) :
    (s.withS f).work = s.work := rfl

@[simp] theorem State.withS_ports (s : State) (f : Session → Session) :
    (s.withS f).ports = s.ports := rfl

/-! `State.withWork` -/

@[simp] theorem State.withWork_cfg (s : State) (f : Transients → Transients) :
    (s.withWork f).cfg = s.cfg := rfl

@[simp] theorem State.withWork_S (s : State) (f : Transients → Transients) :
    (s.withWork f).S = s.S := rfl

@[simp] theorem State.withWork_work (s : State) (f : Transients → Transients) :
    (s.withWork f).work = f s.work := rfl

@[simp] theorem State.withWork_ports (s : State) (f : Transients → Transients) :
    (s.withWork f).ports = s.ports := rfl

/-! `State.put` -/

@[simp] theorem State.put_cfg (s : State) (o : Output) :
    (s.put o).cfg = s.cfg := rfl

@[simp] theorem State.put_S (s : State) (o : Output) :
    (s.put o).S = s.S := rfl

@[simp] theorem State.put_work (s : State) (o : Output) :
    (s.put o).work = s.work := rfl

@[simp] theorem State.put_ports (s : State) (o : Output) :
    (s.put o).ports = { s.ports with out := s.ports.out ++ [o] } := rfl

/-! `State.emit` -/

@[simp] theorem State.emit_cfg (s : State) (e : Event) :
    (s.emit e).cfg = s.cfg := rfl

@[simp] theorem State.emit_S (s : State) (e : Event) :
    (s.emit e).S = s.S := rfl

@[simp] theorem State.emit_work (s : State) (e : Event) :
    (s.emit e).work = s.work := rfl

@[simp] theorem State.emit_ports (s : State) (e : Event) :
    (s.emit e).ports = { s.ports with out := s.ports.out ++ [.evt e] } := rfl

/-! `State.setStage` -/

@[simp] theorem State.setStage_cfg (s : State) (st : Stage) :
    (s.setStage st).cfg = s.cfg := rfl

@[simp] theorem State.setStage_S (s : State) (st : Stage) :
    (s.setStage st).S = { s.S with stage := st } := rfl

@[simp] theorem State.setStage_work (s : State) (st : Stage) :
    (s.setStage st).work = s.work := rfl

@[simp] theorem State.setStage_ports (s : State) (st : Stage) :
    (s.setStage st).ports = { s.ports with out := s.ports.out ++ [.evt (.stageChanged st s.S.features)] } := rfl

/-! `State.accept` -/

@[simp] theorem State.accept_cfg (s : State) :
    s.accept.cfg = s.cfg := rfl

@[simp] theorem State.accept_S (s : State) :
    s.accept.S = s.S := rfl

@[simp] theorem State.accept_work (s : State) :
    s.accept.work = s.work := rfl

@[simp] theorem State.accept_ports (s : State) :
    s.accept.ports = { s.ports with out := s.ports.out ++ [.cmdAccept true] } := rfl

/-! `State.reject` -/

@[simp] theorem State.reject_cfg (s : State) :
    s.reject.cfg = s.cfg := rfl

@[simp] theorem State.reject_S (s : State) :
    s.reject.S = s.S := rfl

@[simp] theorem State.reject_work (s : State) :
    s.reject.work = s.work := rfl

@[simp] theorem State.reject_ports (s : State) :
    s.reject.ports = { s.ports with out := s.ports.out ++ [.cmdAccept false] } := rfl

/-! `State.setReply` -/

@[simp] theorem State.setReply_cfg (s : State) (code : BitVec 3) (body : Body) :
    (s.setReply code body).cfg = s.cfg := rfl

@[simp] theorem State.setReply_S (s : State) (code : BitVec 3) (body : Body) :
    (s.setReply code body).S = s.S := rfl

@[simp] theorem State.setReply_work (s : State) (code : BitVec 3) (body : Body) :
    (s.setReply code body).work = { s.work with reply := some ⟨replySource s, replyToken s, code, body⟩ } := rfl

@[simp] theorem State.setReply_ports (s : State) (code : BitVec 3) (body : Body) :
    (s.setReply code body).ports = s.ports := rfl

/-! `State.returns` -/

@[simp] theorem State.returns_cfg (s : State) (r : CodecResult) :
    (s.returns r).cfg = s.cfg := rfl

@[simp] theorem State.returns_S (s : State) (r : CodecResult) :
    (s.returns r).S = s.S := rfl

@[simp] theorem State.returns_work (s : State) (r : CodecResult) :
    (s.returns r).work = { s.work with result := r } := rfl

@[simp] theorem State.returns_ports (s : State) (r : CodecResult) :
    (s.returns r).ports = s.ports := rfl

/-! `State.withBuf` -/

@[simp] theorem State.withBuf_cfg (s : State) (f : Frame) :
    (s.withBuf f).cfg = s.cfg := rfl

@[simp] theorem State.withBuf_S (s : State) (f : Frame) :
    (s.withBuf f).S = s.S := rfl

@[simp] theorem State.withBuf_work (s : State) (f : Frame) :
    (s.withBuf f).work = { s.work with buf := f } := rfl

@[simp] theorem State.withBuf_ports (s : State) (f : Frame) :
    (s.withBuf f).ports = s.ports := rfl

/-! The reset transaction (70_reset_and_hazards.md R290). -/

@[simp] theorem resetTransaction_cfg (c : Cfg) (s : State) : (resetTransaction c s).cfg = c := rfl

@[simp] theorem resetTransaction_S (c : Cfg) (s : State) :
    (resetTransaction c s).S = Session.reset := rfl

@[simp] theorem resetTransaction_work (c : Cfg) (s : State) :
    (resetTransaction c s).work = Transients.idle := rfl

@[simp] theorem resetTransaction_ports (c : Cfg) (s : State) :
    (resetTransaction c s).ports = { s.ports with rst := none } := rfl

/-! The states of Safety.lean. -/

/-! `stageSet` -/

@[simp] theorem stageSet_cfg (st : Stage) (s : State) :
    (stageSet st s).cfg = s.cfg := rfl

@[simp] theorem stageSet_S (st : Stage) (s : State) :
    (stageSet st s).S = { s.S with stage := st } := rfl

@[simp] theorem stageSet_work (st : Stage) (s : State) :
    (stageSet st s).work = s.work := rfl

@[simp] theorem stageSet_ports (st : Stage) (s : State) :
    (stageSet st s).ports = { s.ports with out := s.ports.out ++ [.evt (.stageChanged st s.S.features)] } := rfl

/-! `afterStart` -/

@[simp] theorem afterStart_cfg (raw : Frame) (s : State) :
    (afterStart raw s).cfg = s.cfg := rfl

@[simp] theorem afterStart_S (raw : Frame) (s : State) :
    (afterStart raw s).S = s.S := rfl

@[simp] theorem afterStart_work (raw : Frame) (s : State) :
    (afterStart raw s).work = { Transients.idle with buf := raw } := rfl

@[simp] theorem afterStart_ports (raw : Frame) (s : State) :
    (afterStart raw s).ports = { s.ports with out := s.ports.out ++ [.evt (.rawRx raw)] } := rfl

/-! `withPending` -/

@[simp] theorem withPending_cfg (e : Event) (s : State) :
    (withPending e s).cfg = s.cfg := rfl

@[simp] theorem withPending_S (e : Event) (s : State) :
    (withPending e s).S = s.S := rfl

@[simp] theorem withPending_work (e : Event) (s : State) :
    (withPending e s).work = { s.work with pending := some e } := rfl

@[simp] theorem withPending_ports (e : Event) (s : State) :
    (withPending e s).ports = s.ports := rfl

/-! `afterNoTurn` -/

@[simp] theorem afterNoTurn_cfg (s : State) :
    (afterNoTurn s).cfg = s.cfg := rfl

@[simp] theorem afterNoTurn_S (s : State) :
    (afterNoTurn s).S = s.S := rfl

@[simp] theorem afterNoTurn_work (s : State) :
    (afterNoTurn s).work = Transients.idle := rfl

@[simp] theorem afterNoTurn_ports (s : State) :
    (afterNoTurn s).ports = { s.ports with out := s.ports.out ++ notified s.work } := rfl

/-! `answered` -/

@[simp] theorem answered_cfg (b : Bool) (s : State) :
    (answered b s).cfg = s.cfg := rfl

@[simp] theorem answered_S (b : Bool) (s : State) :
    (answered b s).S = s.S := rfl

@[simp] theorem answered_work (b : Bool) (s : State) :
    (answered b s).work = s.work := rfl

@[simp] theorem answered_ports (b : Bool) (s : State) :
    (answered b s).ports = { s.ports with out := s.ports.out ++ [.cmdAccept b] } := rfl

end Sys2Proof.Machine
end

