-- ==== Sys2Proof/Laws/Ops.lean ====
section
/-! SUPPORT. What the shared operations of the host commands can do, once for each, and what a trace puts
on the EVT port. -/

namespace Sys2Proof.Machine

/-! The EVT port (30_encoding.md R102, 60_exceptions.md R272). -/

@[simp] theorem Output.onEvt_evt (e : Event) : (Output.evt e).onEvt = some (e.code, e) := rfl
@[simp] theorem Output.onEvt_tx (d : BitVec 64) : (Output.tx d).onEvt = none := rfl
@[simp] theorem Output.onEvt_cmdAccept (b : Bool) : (Output.cmdAccept b).onEvt = none := rfl
@[simp] theorem evtPort_nil : evtPort [] = [] := rfl

@[simp] theorem evtPort_append (l m : List Output) : evtPort (l ++ m) = evtPort l ++ evtPort m :=
  List.filterMap_append

@[simp] theorem evtPort_cons_evt (e : Event) (l : List Output) :
    evtPort (.evt e :: l) = (e.code, e) :: evtPort l := rfl

@[simp] theorem evtPort_cons_tx (d : BitVec 64) (l : List Output) :
    evtPort (.tx d :: l) = evtPort l := rfl

@[simp] theorem evtPort_cons_cmdAccept (b : Bool) (l : List Output) :
    evtPort (.cmdAccept b :: l) = evtPort l := rfl

/-- The code of a stage change. -/
theorem onEvt_of_isStageChanged {o : Output} (h : o.isStageChanged = true) :
    ∃ st f, o.onEvt = some (2, .stageChanged st f) := by
  unfold Output.isStageChanged at h
  split at h
  · exact ⟨_, _, rfl⟩
  · cases h

/-- The code of a deferred event is 3 to 7. -/
theorem onEvt_of_isDeferred {o : Output} (h : o.isDeferred = true) :
    ∃ c e, o.onEvt = some (c, e) ∧ 3 ≤ c.toNat := by
  unfold Output.isDeferred at h
  split at h
  all_goals first
    | exact ⟨_, _, rfl, by simp [Event.code]⟩
    | cases h

/-! The host commands. -/

/-- The lock check computes the condition of 43_host_commands.md R212. -/
theorem locked_iff (s : State) (cmd : LockCmd) (o : Bool) :
    locked s cmd o = true ↔ lockedOut s cmd o := by
  cases o <;> simp [locked, lockedOut]

/-- No check refuses where every check is passed. -/
theorem firstCause_eq_none_iff (l : List (Bool × RejectCause)) :
    firstCause l = none ↔ ∀ e ∈ l, e.1 = false := by
  induction l with
  | nil => simp [firstCause]
  | cons e l ih =>
    obtain ⟨b, c⟩ := e
    cases b <;> simp [firstCause, ih]

/-- A command ends accepted with its effect, or rejected with none. -/
theorem finishCommand_eq (cause : Option RejectCause) (u : State → State) (s : State) :
    finishCommand cause u s = if cause = none then answered true (u s) else answered false s := by
  cases cause <;> rfl

/-- A configuration command writes the pending value and its dirty bit, or is rejected. -/
theorem configCommand_eq (l : List (Bool × RejectCause)) (f : ConfigField) (g : Chg → Chg)
    (s : State) :
    configCommand l f g s =
      if firstCause l = none then answered true (pended (dirtyIndex f) g s)
      else answered false s := by
  unfold configCommand
  rw [finishCommand_eq]
  rfl

/-- A command that runs one list of checks is accepted exactly where a condition holds, if the
condition says that every check is passed. -/
theorem acceptsIff_of_checks {i : Instr} {ok : Prop} {s t : State}
    {l : List (Bool × RejectCause)}
    (he : exec i s = .next (if firstCause l = none then answered true t else answered false s))
    (hl : (∀ e ∈ l, e.1 = false) ↔ ok) : acceptsIff i ok s t := by
  have h : firstCause l = none ↔ ok := (firstCause_eq_none_iff l).trans hl
  constructor
  · intro hok
    rw [he, if_pos (h.2 hok)]
  · intro hok
    rw [he, if_neg (fun hn => hok (h.1 hn))]

/-- The zone checks compute the condition every zone command has (43_host_commands.md R229 to R231). -/
theorem zoneChecks_iff (s : State) (cmd : LockCmd) (o : Bool) (z : BitVec 4) :
    (∀ e ∈ zoneChecks s cmd o z, e.1 = false) ↔ zoneAllowed s cmd o z := by
  have hl := locked_iff s cmd o
  cases hv : s.cfg.variant <;> cases hk : locked s cmd o <;>
    simp [zoneChecks, zoneAllowed, hv, hk, zoneInRange, zoneMember, ← hl, and_assoc]

/-- The new mask of a zone command, as 43_host_commands.md R229 writes it. -/
theorem updateZone_eq (m : ZoneMask) (z : BitVec 4) (v : Bool) : updateZone m z v = zonePut m z v := rfl

end Sys2Proof.Machine
end

