-- ==== Sys2Proof/Laws/Pair.lean ====
section
/-! SUPPORT. The odd/even bit pair, the zone group maps and the temperature, bit by bit
(40_codec_primitives.md R113 to R116, 41_codec_frames.md R140). -/

namespace Sys2Proof

/-- `EXTRACT`, bit by bit (40_codec_primitives.md R113). -/
theorem extractBits_even (b : Byte) {k : Nat} (h : k < 4) :
    (extractBits b .even).getLsbD k = b.getLsbD (2 * k) := by
  interval_cases k <;>
    simp only [extractBits, BitVec.getLsbD_append, BitVec.getLsbD_ofBool] <;> simp

theorem extractBits_odd (b : Byte) {k : Nat} (h : k < 4) :
    (extractBits b .odd).getLsbD k = b.getLsbD (2 * k + 1) := by
  interval_cases k <;>
    simp only [extractBits, BitVec.getLsbD_append, BitVec.getLsbD_ofBool] <;> simp

/-- `INTERLEAVE`, bit by bit (40_codec_primitives.md R114). -/
theorem interleaveBits_even (v : Byte) {k : Nat} (h : k < 8) :
    (interleaveBits v .even).getLsbD k = (decide (k % 2 = 0) && v.getLsbD (k / 2)) := by
  interval_cases k <;>
    simp only [interleaveBits, BitVec.getLsbD_append, BitVec.getLsbD_ofBool] <;> simp

theorem interleaveBits_odd (v : Byte) {k : Nat} (h : k < 8) :
    (interleaveBits v .odd).getLsbD k = (decide (k % 2 = 1) && v.getLsbD (k / 2)) := by
  interval_cases k <;>
    simp only [interleaveBits, BitVec.getLsbD_append, BitVec.getLsbD_ofBool] <;> simp

/-- A group map byte, bit by bit (41_codec_frames.md R140). -/
theorem groupByte_getLsbD (day night : Byte) {k : Nat} (h : k < 8) :
    (groupByte day night).getLsbD k =
      if k % 2 = 0 then day.getLsbD (k / 2) else night.getLsbD (k / 2) := by
  unfold groupByte
  rw [BitVec.getLsbD_or, interleaveBits_even _ h, interleaveBits_odd _ h]
  rcases Nat.mod_two_eq_zero_or_one k with h | h <;> simp [h]

/-- A group mask, bit by bit (41_codec_frames.md R140). -/
theorem groupMask_getLsbD (lo hi : Byte) (p : Parity) {k : Nat} (h : k < 8) :
    (groupMask lo hi p).getLsbD k =
      if k < 4 then (extractBits lo p).getLsbD k else (extractBits hi p).getLsbD (k - 4) := by
  unfold groupMask
  rw [BitVec.getLsbD_or, BitVec.getLsbD_setWidth, BitVec.getLsbD_shiftLeft,
    BitVec.getLsbD_setWidth]
  by_cases h4 : k < 4
  · simp [h4, h]
  · rw [BitVec.getLsbD_of_ge (extractBits lo p) k (by omega)]
    simp [h4, h, show k - 4 < 8 by omega]

/-- The low group map byte of a zone record, bit by bit. -/
theorem groupMapLo_getLsbD (z : ZoneFields) {k : Nat} (h : k < 8) :
    (groupMapLo z).getLsbD k =
      if k % 2 = 0 then z.zoneGroupDay.getLsbD (k / 2) else z.zoneGroupNight.getLsbD (k / 2) := by
  rw [groupMapLo, groupByte_getLsbD _ _ h]
  simp only [BitVec.getLsbD_setWidth, BitVec.getLsbD_extractLsb', show k / 2 < 8 by omega,
    show k / 2 < 4 by omega, decide_true, Bool.true_and, Nat.zero_add]

/-- The high group map byte of a zone record, bit by bit. -/
theorem groupMapHi_getLsbD (z : ZoneFields) {k : Nat} (h : k < 8) :
    (groupMapHi z).getLsbD k =
      if k % 2 = 0 then z.zoneGroupDay.getLsbD (4 + k / 2)
      else z.zoneGroupNight.getLsbD (4 + k / 2) := by
  rw [groupMapHi, groupByte_getLsbD _ _ h]
  simp only [BitVec.getLsbD_setWidth, BitVec.getLsbD_extractLsb', show k / 2 < 8 by omega,
    show k / 2 < 4 by omega, decide_true, Bool.true_and]

/-- The group map bytes of decoded masks are the bytes they were decoded from. -/
theorem groupMaps_of_masks (lo hi : Byte) (z : ZoneFields)
    (hd : z.zoneGroupDay = groupMask lo hi .even) (hn : z.zoneGroupNight = groupMask lo hi .odd) :
    groupMapLo z = lo ∧ groupMapHi z = hi := by
  constructor <;> apply BitVec.eq_of_getLsbD_eq <;> intro k hk <;>
    rcases Nat.mod_two_eq_zero_or_one k with hp | hp
  · rw [groupMapLo_getLsbD _ hk, if_pos hp, hd, groupMask_getLsbD _ _ _ (by omega),
      if_pos (by omega), extractBits_even _ (by omega), show 2 * (k / 2) = k by omega]
  · rw [groupMapLo_getLsbD _ hk, if_neg (by omega), hn, groupMask_getLsbD _ _ _ (by omega),
      if_pos (by omega), extractBits_odd _ (by omega), show 2 * (k / 2) + 1 = k by omega]
  · rw [groupMapHi_getLsbD _ hk, if_pos hp, hd, groupMask_getLsbD _ _ _ (by omega),
      if_neg (by omega), extractBits_even _ (by omega), show 2 * (4 + k / 2 - 4) = k by omega]
  · rw [groupMapHi_getLsbD _ hk, if_neg (by omega), hn, groupMask_getLsbD _ _ _ (by omega),
      if_neg (by omega), extractBits_odd _ (by omega), show 2 * (4 + k / 2 - 4) + 1 = k by omega]

/-- A packed temperature below the field's end, as numbers (40_codec_primitives.md R115, R116). -/
theorem tempPackZoned_toNat (t : Temp) : (tempPackZoned t).toNat = (t.toNat + 64) / 128 := by
  have := t.isLt
  simp [tempPackZoned, Nat.shiftRight_eq_div_pow]
  omega

theorem tempPackLegacy_toNat (t : Temp) : (tempPackLegacy t).toNat = (t.toNat + 128) / 256 := by
  have := t.isLt
  simp [tempPackLegacy, Nat.shiftRight_eq_div_pow]
  omega

theorem tempUnpackZoned_toNat (w : BitVec 7) : (tempUnpackZoned w).toNat = w.toNat * 128 := by
  have := w.isLt
  simp [tempUnpackZoned, Nat.shiftLeft_eq]
  omega

theorem tempUnpackLegacy_toNat (w : BitVec 6) : (tempUnpackLegacy w).toNat = w.toNat * 256 := by
  have := w.isLt
  simp [tempUnpackLegacy, Nat.shiftLeft_eq]
  omega

end Sys2Proof
end

