-- ==== Sys2Proof/Laws/PerInstr.lean ====
section
/-! SUPPORT. One lemma per row of spec/opcode_table.json on how the row is encoded. -/

namespace Sys2Proof.Laws

/-- The operation code of a command row (30_encoding.md R101), none for the other rows. -/
def rowOp : Instr → Option (BitVec 5)
  | .setEnabled _ _ => some 0
  | .setEconomy _ _ => some 1
  | .setTestRun _ _ => some 2
  | .setSetpoint _ _ => some 3
  | .setMode _ _ => some 4
  | .setFanSpeed _ _ => some 5
  | .setVerticalSwing _ _ => some 6
  | .setHorizontalSwing _ _ => some 7
  | .advanceVerticalLouver _ => some 8
  | .advanceHorizontalLouver _ => some 9
  | .useSensor _ _ => some 10
  | .resetFilter _ => some 11
  | .maintenance _ => some 12
  | .setZone _ _ _ => some 13
  | .setZoneGroupDay _ _ _ => some 14
  | .setZoneGroupNight _ _ _ => some 15
  | .setCurrentTemperature _ _ => some 16
  | .queueFunction _ _ => some 17
  | .reinit _ => some 18
  | .undefinedOp19 => some 19
  | .undefinedOp20 => some 20
  | .undefinedOp21 => some 21
  | .undefinedOp22 => some 22
  | .undefinedOp23 => some 23
  | .undefinedOp24 => some 24
  | .undefinedOp25 => some 25
  | .undefinedOp26 => some 26
  | .undefinedOp27 => some 27
  | .undefinedOp28 => some 28
  | .undefinedOp29 => some 29
  | .undefinedOp30 => some 30
  | .undefinedOp31 => some 31
  | _ => none

/-- 30_encoding.md R70, R100, R105: a received-frame row is encoded as the complement of the logical frame
of its operands, a command row as a word with its operation code, a row of format primitive not at
all. -/
def RowEncoding.Statement (i : Instr) : Prop :=
  ∀ c : Cfg,
    match i.received with
    | some (h, p) => encode c i = some (.rx (invertFrame (rawOf c p h.ignored)) h.last)
    | none =>
      match rowOp i with
      | some op => ∃ o arg, encode c i = some (.cmd (cmdWord o op arg))
      | none => encode c i = none

theorem RowEncoding.configIU (h : RxHead) (common : ConfigCommon) (iu : IUSub) :
    RowEncoding.Statement (.configIU h common iu) := fun _ => rfl

theorem RowEncoding.configC (h : RxHead) (common : ConfigCommon) (ctl : CtlSub) :
    RowEncoding.Statement (.configC h common ctl) := fun _ => rfl

theorem RowEncoding.errorIU (h : RxHead) (code : Byte) :
    RowEncoding.Statement (.errorIU h code) := fun _ => rfl

theorem RowEncoding.errorC (h : RxHead) (code : Byte) :
    RowEncoding.Statement (.errorC h code) := fun _ => rfl

theorem RowEncoding.featuresIU (h : RxHead) (f : Features) :
    RowEncoding.Statement (.featuresIU h f) := fun _ => rfl

theorem RowEncoding.featuresC (h : RxHead) (f : Features) :
    RowEncoding.Statement (.featuresC h f) := fun _ => rfl

theorem RowEncoding.functionIU (h : RxHead) (b : FunctionBody) :
    RowEncoding.Statement (.functionIU h b) := fun _ => rfl

theorem RowEncoding.functionC (h : RxHead) (b : FunctionBody) :
    RowEncoding.Statement (.functionC h b) := fun _ => rfl

theorem RowEncoding.statusIU (h : RxHead) :
    RowEncoding.Statement (.statusIU h) := fun _ => rfl

theorem RowEncoding.statusC (h : RxHead) :
    RowEncoding.Statement (.statusC h) := fun _ => rfl

theorem RowEncoding.zoneConfigIU (h : RxHead) (z : ZoneFields) :
    RowEncoding.Statement (.zoneConfigIU h z) := fun _ => rfl

theorem RowEncoding.zoneConfigC (h : RxHead) (z : ZoneFields) (write : Bool) :
    RowEncoding.Statement (.zoneConfigC h z write) := fun _ => rfl

theorem RowEncoding.zoneFunctionIU (h : RxHead) (b : ZoneFunctionBody) :
    RowEncoding.Statement (.zoneFunctionIU h b) := fun _ => rfl

theorem RowEncoding.zoneFunctionC (h : RxHead) :
    RowEncoding.Statement (.zoneFunctionC h) := fun _ => rfl

theorem RowEncoding.unknown7 (h : RxHead) (role : Role) :
    RowEncoding.Statement (.unknown7 h role) := fun _ => rfl

theorem RowEncoding.unknown5Legacy (h : RxHead) (role : Role) :
    RowEncoding.Statement (.unknown5Legacy h role) := fun _ => rfl

theorem RowEncoding.unknown6Legacy (h : RxHead) (role : Role) :
    RowEncoding.Statement (.unknown6Legacy h role) := fun _ => rfl

theorem RowEncoding.setEnabled (o : Bool) (v : Bool) :
    RowEncoding.Statement (.setEnabled o v) := fun _ => ⟨_, _, rfl⟩

theorem RowEncoding.setEconomy (o : Bool) (v : Bool) :
    RowEncoding.Statement (.setEconomy o v) := fun _ => ⟨_, _, rfl⟩

theorem RowEncoding.setTestRun (o : Bool) (v : Bool) :
    RowEncoding.Statement (.setTestRun o v) := fun _ => ⟨_, _, rfl⟩

theorem RowEncoding.setSetpoint (o : Bool) (d : BitVec 8) :
    RowEncoding.Statement (.setSetpoint o d) := fun _ => ⟨_, _, rfl⟩

theorem RowEncoding.setMode (o : Bool) (m : BitVec 3) :
    RowEncoding.Statement (.setMode o m) := fun _ => ⟨_, _, rfl⟩

theorem RowEncoding.setFanSpeed (o : Bool) (sp : BitVec 3) :
    RowEncoding.Statement (.setFanSpeed o sp) := fun _ => ⟨_, _, rfl⟩

theorem RowEncoding.setVerticalSwing (o : Bool) (v : Bool) :
    RowEncoding.Statement (.setVerticalSwing o v) := fun _ => ⟨_, _, rfl⟩

theorem RowEncoding.setHorizontalSwing (o : Bool) (v : Bool) :
    RowEncoding.Statement (.setHorizontalSwing o v) := fun _ => ⟨_, _, rfl⟩

theorem RowEncoding.advanceVerticalLouver (o : Bool) :
    RowEncoding.Statement (.advanceVerticalLouver o) := fun _ => ⟨_, _, rfl⟩

theorem RowEncoding.advanceHorizontalLouver (o : Bool) :
    RowEncoding.Statement (.advanceHorizontalLouver o) := fun _ => ⟨_, _, rfl⟩

theorem RowEncoding.useSensor (o : Bool) (v : Bool) :
    RowEncoding.Statement (.useSensor o v) := fun _ => ⟨_, _, rfl⟩

theorem RowEncoding.resetFilter (o : Bool) :
    RowEncoding.Statement (.resetFilter o) := fun _ => ⟨_, _, rfl⟩

theorem RowEncoding.maintenance (o : Bool) :
    RowEncoding.Statement (.maintenance o) := fun _ => ⟨_, _, rfl⟩

theorem RowEncoding.setZone (o : Bool) (z : BitVec 4) (v : Bool) :
    RowEncoding.Statement (.setZone o z v) := fun _ => ⟨_, _, rfl⟩

theorem RowEncoding.setZoneGroupDay (o : Bool) (z : BitVec 4) (v : Bool) :
    RowEncoding.Statement (.setZoneGroupDay o z v) := fun _ => ⟨_, _, rfl⟩

theorem RowEncoding.setZoneGroupNight (o : Bool) (z : BitVec 4) (v : Bool) :
    RowEncoding.Statement (.setZoneGroupNight o z v) := fun _ => ⟨_, _, rfl⟩

theorem RowEncoding.setCurrentTemperature (o : Bool) (t : BitVec 16) :
    RowEncoding.Statement (.setCurrentTemperature o t) := fun _ => ⟨_, _, rfl⟩

theorem RowEncoding.queueFunction (o : Bool) (b : FunctionBody) :
    RowEncoding.Statement (.queueFunction o b) := fun _ => ⟨_, _, rfl⟩

theorem RowEncoding.reinit (o : Bool) :
    RowEncoding.Statement (.reinit o) := fun _ => ⟨_, _, rfl⟩

theorem RowEncoding.undefinedOp19 : RowEncoding.Statement .undefinedOp19 := fun _ => ⟨_, _, rfl⟩

theorem RowEncoding.undefinedOp20 : RowEncoding.Statement .undefinedOp20 := fun _ => ⟨_, _, rfl⟩

theorem RowEncoding.undefinedOp21 : RowEncoding.Statement .undefinedOp21 := fun _ => ⟨_, _, rfl⟩

theorem RowEncoding.undefinedOp22 : RowEncoding.Statement .undefinedOp22 := fun _ => ⟨_, _, rfl⟩

theorem RowEncoding.undefinedOp23 : RowEncoding.Statement .undefinedOp23 := fun _ => ⟨_, _, rfl⟩

theorem RowEncoding.undefinedOp24 : RowEncoding.Statement .undefinedOp24 := fun _ => ⟨_, _, rfl⟩

theorem RowEncoding.undefinedOp25 : RowEncoding.Statement .undefinedOp25 := fun _ => ⟨_, _, rfl⟩

theorem RowEncoding.undefinedOp26 : RowEncoding.Statement .undefinedOp26 := fun _ => ⟨_, _, rfl⟩

theorem RowEncoding.undefinedOp27 : RowEncoding.Statement .undefinedOp27 := fun _ => ⟨_, _, rfl⟩

theorem RowEncoding.undefinedOp28 : RowEncoding.Statement .undefinedOp28 := fun _ => ⟨_, _, rfl⟩

theorem RowEncoding.undefinedOp29 : RowEncoding.Statement .undefinedOp29 := fun _ => ⟨_, _, rfl⟩

theorem RowEncoding.undefinedOp30 : RowEncoding.Statement .undefinedOp30 := fun _ => ⟨_, _, rfl⟩

theorem RowEncoding.undefinedOp31 : RowEncoding.Statement .undefinedOp31 := fun _ => ⟨_, _, rfl⟩

theorem RowEncoding.invert (f : Frame) :
    RowEncoding.Statement (.invert f) := fun _ => rfl

theorem RowEncoding.getField (d : Descriptor) :
    RowEncoding.Statement (.getField d) := fun _ => rfl

theorem RowEncoding.setField (d : Descriptor) (v : BitVec 16) :
    RowEncoding.Statement (.setField d v) := fun _ => rfl

theorem RowEncoding.extract (b : Byte) (p : Parity) :
    RowEncoding.Statement (.extract b p) := fun _ => rfl

theorem RowEncoding.interleave (v : Byte) (p : Parity) :
    RowEncoding.Statement (.interleave v p) := fun _ => rfl

theorem RowEncoding.tempPackZ (t : Temp) :
    RowEncoding.Statement (.tempPackZ t) := fun _ => rfl

theorem RowEncoding.tempUnpackZ (w : BitVec 7) :
    RowEncoding.Statement (.tempUnpackZ w) := fun _ => rfl

theorem RowEncoding.tempPackL (t : Temp) :
    RowEncoding.Statement (.tempPackL t) := fun _ => rfl

theorem RowEncoding.tempUnpackL (w : BitVec 6) :
    RowEncoding.Statement (.tempUnpackL w) := fun _ => rfl

theorem RowEncoding.decode (w : Frame) :
    RowEncoding.Statement (.decode w) := fun _ => rfl

theorem RowEncoding.encode (p : Packet) :
    RowEncoding.Statement (.encode p) := fun _ => rfl

theorem RowEncoding.encodeLogical (p : Packet) :
    RowEncoding.Statement (.encodeLogical p) := fun _ => rfl

theorem RowEncoding.rxFrame (w : Frame) (last : Bool) :
    RowEncoding.Statement (.rxFrame w last) := fun _ => rfl

theorem RowEncoding.featuresReq : RowEncoding.Statement .featuresReq := fun _ => rfl

theorem RowEncoding.zoneFunctionReq : RowEncoding.Statement .zoneFunctionReq := fun _ => rfl

theorem RowEncoding.zoneConfigReq : RowEncoding.Statement .zoneConfigReq := fun _ => rfl

end Sys2Proof.Laws
end

