-- ==== Sys2Proof/Laws/RoundTrip.lean ====
section
/-! SUPPORT. What a decoded packet stores when it is encoded again: each field as it was loaded, so the
covered bits of the frame (41_codec_frames.md R130, R131; 30_encoding.md R94, R98). -/

namespace Sys2Proof

/-- A 1-bit field is stored as it was loaded. -/
theorem flagValue_of_lt {x : Byte} (h : x.toNat < 2) : flagValue (x.getLsbD 0) = x.setWidth 16 := by
  have : x = 0 ∨ x = 1 := by
    rcases Nat.lt_succ_iff_lt_or_eq.1 h with h | h
    · left; apply BitVec.eq_of_toNat_eq; simp; omega
    · right; apply BitVec.eq_of_toNat_eq; simpa using h
  rcases this with rfl | rfl <;> decide

/-- A narrow field is stored as it was loaded. -/
theorem setWidth_of_lt {x : Byte} {n : Nat} (h : x.toNat < 2 ^ n) :
    (x.setWidth n).setWidth 16 = x.setWidth 16 := by
  apply BitVec.eq_of_toNat_eq
  simp [Nat.mod_eq_of_lt h]

/-- A temperature field is stored as it was loaded (40_codec_primitives.md R115, R116). -/
theorem tempPack_tempUnpack {v : Variant} {x : Byte}
    (h : x.toNat < 2 ^ fieldWidth v .temperature) :
    (tempPack v (tempUnpack v x)).setWidth 16 = x.setWidth 16 := by
  cases v <;> simp only [fieldWidth] at h <;> apply BitVec.eq_of_toNat_eq <;>
    simp [tempPack, tempUnpack, tempPackZoned_toNat, tempPackLegacy_toNat, tempUnpackZoned_toNat,
      tempUnpackLegacy_toNat] <;> omega

/-- The value a decoded body stores for a field is what was loaded for it. -/
theorem fieldValue_decodeBody {c : Cfg} (hc : c.wellFormed = true) {code : BitVec 3} {role : Role}
    (f : Frame) {n : FieldName} (hn : n ∈ fieldsOf c.variant (kindOf c.variant code role)) :
    fieldValue c.variant (decodeBody c (kindOf c.variant code role) f) n =
      (getFieldOf (c.layout.get c.variant (kindOf c.variant code role) n) f).setWidth 16 := by
  generalize hk : kindOf c.variant code role = k at hn ⊢
  have hz := kindOf_zoned (v := c.variant) (code := code) (role := role) (k := k) hk
  clear hk
  have hlt : ∀ m ∈ fieldsOf c.variant k,
      (getFieldOf (c.layout.get c.variant k m) f).toNat < 2 ^ fieldWidth c.variant m := by
    intro m hm
    obtain ⟨_, h1, h2, _⟩ := Cfg.wellFormed_field hc hm
    have := getFieldOf_lt (d := c.layout.get c.variant k m) h1 f
    rwa [h2] at this
  have hg := hlt n hn
  generalize hv : c.variant = v at *
  cases k
  case configIU =>
    simp only [fieldsOf, commonFields, iuFields, List.cons_append, List.nil_append, List.mem_cons,
      List.not_mem_nil, or_false] at hn
    rcases hn with rfl | rfl | rfl | rfl | rfl | rfl | rfl | rfl | rfl | rfl | rfl | rfl | rfl |
      rfl | rfl | rfl | rfl | rfl | rfl <;>
    simp only [decodeBody, fieldValue, decodeCommon, decodeIU, getFlag, getBits, hv] <;>
    first | exact flagValue_of_lt hg | exact setWidth_of_lt hg
  case configC =>
    simp only [fieldsOf, commonFields, ctlFields, List.cons_append, List.nil_append, List.mem_cons,
      List.not_mem_nil, or_false] at hn
    rcases hn with rfl | rfl | rfl | rfl | rfl | rfl | rfl | rfl | rfl | rfl | rfl | rfl | rfl |
      rfl | rfl <;>
    simp only [decodeBody, fieldValue, decodeCommon, decodeCtl, getFlag, getBits, hv] <;>
    first | exact flagValue_of_lt hg | exact setWidth_of_lt hg | exact tempPack_tempUnpack hg
  case error =>
    simp only [fieldsOf, List.mem_cons, List.not_mem_nil, or_false] at hn
    subst hn
    simp only [decodeBody, fieldValue, decodeCode, getBits, hv]
  case features =>
    have hn' : n ∈ featureFields ++ [.zones] := by
      cases v <;> simp only [fieldsOf] at hn
      · exact List.mem_append_left _ hn
      · exact hn
    have hvz : n = .zones → v = .zoned := by
      rintro rfl
      cases v
      · simp [fieldsOf, featureFields] at hn
      · rfl
    simp only [featureFields, List.cons_append, List.nil_append, List.mem_cons,
      List.not_mem_nil, or_false] at hn'
    rcases hn' with rfl | rfl | rfl | rfl | rfl | rfl | rfl | rfl | rfl | rfl | rfl | rfl | rfl |
      rfl | rfl | rfl | rfl
    case inr.inr.inr.inr.inr.inr.inr.inr.inr.inr.inr.inr.inr.inr.inr.inr =>
      have := hvz rfl
      subst this
      simp only [decodeBody, fieldValue, decodeFeatures, getFlag, hv]
      exact flagValue_of_lt hg
    all_goals
      simp only [decodeBody, fieldValue, decodeFeatures, getFlag, hv]
      exact flagValue_of_lt hg
  case function =>
    simp only [fieldsOf, List.mem_cons, List.not_mem_nil, or_false] at hn
    rcases hn with rfl | rfl | rfl <;>
    simp only [decodeBody, fieldValue, decodeFunction, getBits, hv]
    exact setWidth_of_lt hg
  case zoneConfigIU =>
    have hz := hz (by simp)
    subst hz
    simp only [fieldsOf, zoneFieldNames, List.mem_cons, List.not_mem_nil, or_false] at hn
    rcases hn with rfl | rfl | rfl | rfl | rfl <;>
    simp only [decodeBody, fieldValue, decodeZones, getFlag, getBits, hv]
    · rw [(groupMaps_of_masks _ _ _ rfl rfl).1]
    · rw [(groupMaps_of_masks _ _ _ rfl rfl).2]
    all_goals exact flagValue_of_lt hg
  case zoneConfigC =>
    have hz := hz (by simp)
    subst hz
    simp only [fieldsOf, zoneFieldNames, List.cons_append, List.nil_append, List.mem_cons,
      List.not_mem_nil, or_false] at hn
    rcases hn with rfl | rfl | rfl | rfl | rfl | rfl <;>
    simp only [decodeBody, fieldValue, decodeZones, getFlag, getBits, hv]
    · rw [(groupMaps_of_masks _ _ _ rfl rfl).1]
    · rw [(groupMaps_of_masks _ _ _ rfl rfl).2]
    all_goals exact flagValue_of_lt hg
  case zoneFunctionIU =>
    have hz := hz (by simp)
    subst hz
    simp only [fieldsOf, List.mem_cons, List.not_mem_nil, or_false] at hn
    rcases hn with rfl | rfl <;>
    simp only [decodeBody, fieldValue, decodeZoneFunction, getFlag, getBits, hv]
    exact flagValue_of_lt hg
  all_goals exact absurd hn (by simp [fieldsOf])

/-- What is stored of a loaded field is its bits. -/
theorem storedBits_getFieldOf {d : Descriptor} (h : d.maskOk = true) (f : Frame) (b : Nat) :
    (storedBits d ((getFieldOf d f).setWidth 16)).getLsbD b =
      ((f.lane d.byte).getLsbD b && d.mask.getLsbD b) := by
  rw [storedBits_getLsbD, BitVec.getLsbD_setWidth, getFieldOf_getLsbD _ h, mask_getLsbD _ h]
  obtain ⟨_, h2, _⟩ := maskOk_iff d h
  by_cases hs : d.shift ≤ b
  · by_cases hb : b < d.shift + popCount d.mask
    · simp [hs, hb, show b - d.shift < 16 by omega, show b - d.shift < popCount d.mask by omega]
    · simp [hb]
  · simp [hs]

/-- The header descriptors are as 30_encoding.md R71 gives them. -/
theorem hdr_maskOk {d : Descriptor} (h : d ∈ hdrDescriptors) : d.maskOk = true := by
  revert h; revert d; decide

/-- A role read from its bit is stored as that bit. -/
theorem roleBit_ofBit {x : Byte} (h : x.toNat < 2) :
    (Role.ofBit (x.getLsbD 0)).bit.setWidth 16 = x.setWidth 16 := by
  have : x = 0 ∨ x = 1 := by
    rcases Nat.lt_succ_iff_lt_or_eq.1 h with h | h
    · left; apply BitVec.eq_of_toNat_eq; simp; omega
    · right; apply BitVec.eq_of_toNat_eq; simpa using h
  rcases this with rfl | rfl <;> decide

/-- The header of a decoded packet is the header of the frame. -/
theorem headerFrame_decode (c : Cfg) (f : Frame) (k b : Nat) :
    ((headerFrame (decodeLogicalOf c f)).lane k).getLsbD b =
      ((f.lane k).getLsbD b && (headerBits.lane k).getLsbD b) := by
  have h1 := hdr_maskOk (d := hdrSourceType) (by decide)
  have h2 := hdr_maskOk (d := hdrSourceAddress) (by decide)
  have h3 := hdr_maskOk (d := hdrTokenType) (by decide)
  have h4 := hdr_maskOk (d := hdrTokenAddress) (by decide)
  have h5 := hdr_maskOk (d := hdrType) (by decide)
  rw [headerFrame_lane]
  simp only [decodeLogicalOf, decodeAddress, decodeType]
  rw [roleBit_ofBit (getFieldOf_lt hdrSourceType h1 f), roleBit_ofBit (getFieldOf_lt hdrTokenType h3 f),
    setWidth_of_lt (n := 3) (getFieldOf_lt hdrType h5 f)]
  rcases k with _ | _ | _ | k
  · change (_ ||| _ : Byte).getLsbD b = _
    rw [BitVec.getLsbD_or, storedBits_getFieldOf h1, storedBits_getFieldOf h2]
    change ((f.lane 0).getLsbD b && _ || (f.lane 0).getLsbD b && _) = _
    rw [← Bool.and_or_distrib_left,
      ← BitVec.getLsbD_or]
    rfl
  · change (_ ||| _ : Byte).getLsbD b = _
    rw [BitVec.getLsbD_or, storedBits_getFieldOf h3, storedBits_getFieldOf h4]
    change ((f.lane 1).getLsbD b && _ || (f.lane 1).getLsbD b && _) = _
    rw [← Bool.and_or_distrib_left,
      ← BitVec.getLsbD_or]
    rfl
  · exact storedBits_getFieldOf h5 f b
  · have : headerBits.lane (k + 1 + 1 + 1) = 0 := by
      rcases k with _ | _ | _ | _ | _ | k <;> rfl
    rw [this]; simp

/-- The fields of a decoded packet are the covered bits of the frame it was decoded from. -/
theorem frameFields_decode {c : Cfg} (hc : c.wellFormed = true) (f : Frame) :
    frameFields c (decodeLogicalOf c f) =
      f.and (coveredBits c (packetKind c (decodeLogicalOf c f))) := by
  apply Frame.ext_lane
  intro k _
  apply BitVec.eq_of_getLsbD_eq
  intro b _
  rw [frameFields_getLsbD, Frame.lane_and, BitVec.getLsbD_and, coveredBits_getLsbD, headerFrame_decode,
    Bool.and_or_distrib_left]
  congr 1
  rw [Bool.eq_iff_iff]
  simp only [List.any_eq_true, Bool.and_eq_true, decide_eq_true_eq]
  have hb : ∀ n ∈ fieldsOf c.variant (packetKind c (decodeLogicalOf c f)),
      (storedBits (c.layout.get c.variant (packetKind c (decodeLogicalOf c f)) n)
        (fieldValue c.variant (decodeLogicalOf c f).body n)).getLsbD b =
      ((f.lane (c.layout.get c.variant (packetKind c (decodeLogicalOf c f)) n).byte).getLsbD b &&
        (c.layout.get c.variant (packetKind c (decodeLogicalOf c f)) n).mask.getLsbD b) := by
    intro n hn
    have := fieldValue_decodeBody hc f hn
    rw [show (decodeLogicalOf c f).body = decodeBody c (packetKind c (decodeLogicalOf c f)) f from rfl]
    unfold packetKind at *
    rw [this]
    exact storedBits_getFieldOf (Cfg.wellFormed_field hc hn).2.1 f b
  constructor
  · rintro ⟨n, hn, ⟨hk, h7⟩, hx⟩
    rw [hb n hn, Bool.and_eq_true] at hx
    rw [← hk] at hx
    exact ⟨hx.1, n, hn, ⟨hk, h7⟩, hx.2⟩
  · rintro ⟨hx, n, hn, ⟨hk, h7⟩, hm⟩
    refine ⟨n, hn, ⟨hk, h7⟩, ?_⟩
    rw [hb n hn, Bool.and_eq_true, ← hk]
    exact ⟨hx, hm⟩

/-- A frame is its covered bits and the rest. -/
theorem Frame.and_or_invert (f m : Frame) : (f.and m).or (f.and (invertFrame m)) = f := by
  apply Frame.ext_lane
  intro k hk
  rw [Frame.lane_or, Frame.lane_and, Frame.lane_and, Frame.lane_invert _ (by omega)]
  ext i hi
  simp
  cases (f.lane k)[i] <;> simp

/-- The logical frame of a decoded packet with its ignored bits is the frame as received. -/
theorem rawOf_decode {c : Cfg} (hc : c.wellFormed = true) (f : Frame) :
    rawOf c (decodeLogicalOf c f) (ignoredBits c (packetKind c (decodeLogicalOf c f)) f) = f := by
  rw [rawOf, frameFields_decode hc, ignoredBits, Frame.and_or_invert]

/-! Which bits of an encoded frame a decoder reads. -/

/-- The fixups touch no covered bit (30_encoding.md R92). -/
theorem fixup_covered_bit {c : Cfg} (hc : c.wellFormed = true) (p : Packet) (k b : Nat) :
    (((c.fixupOf p.typeCode p.src.role).lane k).getLsbD b &&
      ((coveredBits c (packetKind c p)).lane k).getLsbD b) = false := by
  have h := Cfg.wellFormed_fixup hc p.typeCode p.src.role
  simp only [Cfg.fixupEntryOk, Bool.and_eq_true, fixupHeaderFree, fixupFieldFree, List.all_eq_true,
    beq_iff_eq] at h
  obtain ⟨⟨⟨h0, h1⟩, h2⟩, hf⟩ := h
  rw [coveredBits_getLsbD, Bool.and_or_distrib_left, Bool.or_eq_false_iff]
  constructor
  · rw [← BitVec.getLsbD_and]
    rcases k with _ | _ | _ | k
    · show ((findFixup _ _ _ _).b0 &&& 0x2F).getLsbD b = false
      rw [h0]; simp
    · show ((findFixup _ _ _ _).b1 &&& 0x2F).getLsbD b = false
      have : (0x2F : Byte) = 0xAF &&& 0x2F := by decide
      rw [this, ← BitVec.and_assoc, h1]; simp
    · show ((findFixup _ _ _ _).b2 &&& 0x70).getLsbD b = false
      rw [h2]; simp
    · have : (Frame.mk 0x2F 0x2F 0x70 0 0 0 0 0).lane (k + 1 + 1 + 1) = 0 := by
        rcases k with _ | _ | _ | _ | _ | k <;> rfl
      rw [this]; simp
  · rw [Bool.eq_false_iff]
    intro hx
    simp only [Bool.and_eq_true, List.any_eq_true, decide_eq_true_eq] at hx
    obtain ⟨hk, n, hn, ⟨hkb, _⟩, hm⟩ := hx
    have := congrArg (fun x => x.getLsbD b) (hf n hn)
    simp only [BitVec.getLsbD_and] at this
    change (((c.fixupOf p.typeCode p.src.role).lane
      (c.layout.get c.variant (packetKind c p) n).byte).getLsbD b &&
        (c.layout.get c.variant (packetKind c p) n).mask.getLsbD b) = BitVec.getLsbD 0 b at this
    rw [← hkb, hk, hm] at this
    simp at this

/-- The universal bit is not covered (30_encoding.md R71). -/
theorem universal_covered_bit {c : Cfg} (hc : c.wellFormed = true) (kind : Kind) (k b : Nat) :
    ((Frame.lane { b1 := 0x80 } k).getLsbD b && ((coveredBits c kind).lane k).getLsbD b) = false := by
  rw [coveredBits_getLsbD, Bool.and_or_distrib_left, Bool.or_eq_false_iff]
  by_cases h1 : k = 1
  · subst h1
    constructor
    · rw [← BitVec.getLsbD_and]
      show (0x80#8 &&& 0x2F#8).getLsbD b = false
      simp
    · rw [Bool.eq_false_iff]
      intro hx
      simp only [Bool.and_eq_true, List.any_eq_true, decide_eq_true_eq] at hx
      obtain ⟨_, n, hn, ⟨hkb, _⟩, _⟩ := hx
      have := (Cfg.wellFormed_field hc hn).2.2.2
      simp [Descriptor.headerFree, ← hkb] at this
  · have : Frame.lane { b1 := 0x80 } k = 0 := by
      rcases k with _ | _ | _ | _ | _ | _ | _ | _ | k <;> first | rfl | contradiction
    rw [this]; simp

/-- A field's load depends on the bits of its mask only. -/
theorem getField_mask_congr (d : Descriptor) {f g : Frame}
    (h : ∀ b, d.mask.getLsbD b = true → (f.lane d.byte).getLsbD b = (g.lane d.byte).getLsbD b) :
    getFieldOf d f = getFieldOf d g := by
  unfold getFieldOf
  congr 1
  apply BitVec.eq_of_getLsbD_eq
  intro b _
  rw [BitVec.getLsbD_and, BitVec.getLsbD_and]
  by_cases hb : d.mask.getLsbD b = true
  · rw [h b hb]
  · simp [hb]

/-- Decoding depends on the covered bits only (93_implementation_defined.md U1). -/
theorem decodeLogicalOf_congr {c : Cfg} {f g : Frame}
    (h : f.and (coveredBits c (packetKind c (decodeLogicalOf c f))) =
      g.and (coveredBits c (packetKind c (decodeLogicalOf c f)))) :
    decodeLogicalOf c f = decodeLogicalOf c g := by
  have hh : ∀ d ∈ hdrDescriptors, getFieldOf d f = getFieldOf d g := by
    intro d hd
    rw [← getHeader_and_covered c _ hd, h, getHeader_and_covered c _ hd]
  simp only [hdrDescriptors, List.forall_mem_cons] at hh
  obtain ⟨h1, h2, h3, h4, h5, _⟩ := hh
  have hb := decodeBody_congr (c := c) (code := decodeType f)
    (role := Role.ofBit ((getFieldOf hdrSourceType f).getLsbD 0)) (f := f) (g := g) (by
      intro n hn
      rw [← getField_and_covered c _ hn f, ← getField_and_covered c _ hn g]
      congr 1)
  have ht : decodeType f = decodeType g := by unfold decodeType; rw [h5]
  unfold decodeLogicalOf
  simp only [decodeAddress]
  rw [hb, h1, h2, h3, h4, ht]

/-- A packet's fields are stored inside the covered bits. -/
theorem frameFields_covered {c : Cfg} (p : Packet) :
    (frameFields c p).and (coveredBits c (packetKind c p)) = frameFields c p := by
  apply Frame.ext_lane
  intro k _
  apply BitVec.eq_of_getLsbD_eq
  intro b _
  rw [Frame.lane_and, BitVec.getLsbD_and, coveredBits_getLsbD, frameFields_getLsbD]
  have h1 : ((headerFrame p).lane k).getLsbD b = true → ((Frame.mk 0x2F 0x2F 0x70 0 0 0 0 0).lane k).getLsbD b = true := by
    intro h
    rw [← headerFrame_and, BitVec.getLsbD_and, Bool.and_eq_true] at h
    exact h.2
  rw [Bool.eq_iff_iff]
  simp only [Bool.and_eq_true, Bool.or_eq_true, List.any_eq_true]
  constructor
  · exact fun h => h.1
  · rintro (h | ⟨n, hn, hd, hs⟩)
    · exact ⟨.inl h, .inl (h1 h)⟩
    · refine ⟨.inr ⟨n, hn, hd, hs⟩, .inr ⟨n, hn, hd, ?_⟩⟩
      rw [storedBits_getLsbD, Bool.and_eq_true] at hs
      exact hs.2

/-- The covered bits of an encoded packet are its fields. -/
theorem encodeLogical_covered {c : Cfg} (hc : c.wellFormed = true) (p : Packet) :
    (encodeLogicalOf c p).and (coveredBits c (packetKind c p)) = frameFields c p := by
  rw [encodeLogicalOf_eq]
  apply Frame.ext_lane
  intro k _
  apply BitVec.eq_of_getLsbD_eq
  intro b _
  have h1 := fixup_covered_bit hc p k b
  have h2 := universal_covered_bit hc (packetKind c p) k b
  simp only [Frame.lane_and, Frame.lane_or, BitVec.getLsbD_and, BitVec.getLsbD_or, Bool.and_or_distrib_right]
  rw [h1, h2, Bool.or_false, Bool.or_false, ← BitVec.getLsbD_and, ← Frame.lane_and, frameFields_covered]

end Sys2Proof
end

