-- ==== Sys2Proof/Laws/Turn.lean ====
section
/-! SUPPORT. What the shared operations of RX_FRAME can do, once for each, in the terms of Safety.lean
(42_fsm_rx.md R160 to R194). -/

namespace Sys2Proof.Machine

/-! Steps 1 and 2. -/

/-- Writing the stage register, as 42_fsm_rx.md R161 writes it. -/
theorem setStage_eq (s : State) (st : Stage) : s.setStage st = stageSet st s := rfl

theorem zonesNegotiated_iff (c : Cfg) (f : Features) :
    zonesNegotiated c f = true ↔ c.variant = .zoned ∧ f.zones = true := by
  simp [zonesNegotiated]

/-- Step 1 is the state of 42_fsm_rx.md R162 and R163. -/
theorem rxDiscovery_eq (raw : Frame) (role : Role) (s : State) :
    rxDiscovery role (rxStart raw s) = afterStep1 raw role s := by
  unfold rxDiscovery afterStep1
  simp only [setStage_eq, ← zonesNegotiated_iff]
  show (if s.S.stage = .findNextControllerRx then _ else _) = _
  split
  · cases role <;> rfl
  · rfl

/-- The transaction on a row is step 2 between step 1 and `closeFrame`. -/
theorem receiveRow_eq (h : RxHead) (p : Packet) (step2 : State → State) (s : State)
    (ht : p.tok = tokenOf h) :
    receiveRow h p step2 s =
      closeFrame (tokenOf h) h.last (step2 (afterStep1 (rawOf s.cfg p h.ignored) p.src.role s)) := by
  rw [← rxDiscovery_eq, ← ht]
  rfl

/-! Step 3: the turn. -/

/-- The token condition of 42_fsm_rx.md R178. -/
theorem givesTurn_iff (c : Cfg) (p : Packet) (last : Bool) :
    givesTurn c p last = true ↔ ownsTurn c p.tok last := by
  simp [givesTurn, ownsTurn, and_assoc]

/-- A transaction without the turn ends with its notification. -/
theorem closeFrame_noTurn {tok : Address} {last : Bool} {b : State}
    (h : givesTurn b.cfg ⟨{}, tok, 0, .none⟩ last = false) :
    closeFrame tok last b = rxEnd (b.withWork fun w => { w with turn := false }) := by
  unfold closeFrame busTurn
  simp only [h, State.withWork_work, Bool.false_eq_true, if_false]

/-- A transaction with the turn takes the discovery action, builds one reply and transmits it. -/
theorem closeFrame_turn {tok : Address} {last : Bool} {b : State} (h : ownsTurn b.cfg tok last) :
    closeFrame tok last b =
      rxEnd (transmit (buildReply
        (chooseReply (atReply (b.withWork fun w => { w with turn := true })))
        (atReply (b.withWork fun w => { w with turn := true })))) := by
  have hg := (givesTurn_iff b.cfg ⟨{}, tok, 0, .none⟩ last).2 h
  unfold closeFrame busTurn
  simp only [hg, State.withWork_work, if_true]
  rfl

/-- The discovery action does not depend on the transients. -/
theorem atReply_withWork (b : State) (g : Transients → Transients) :
    atReply (b.withWork g) = (atReply b).withWork g := by
  unfold atReply
  by_cases h : b.S.stage = .findNextControllerTx
  · rw [if_pos h, if_pos (show (b.withWork g).S.stage = .findNextControllerTx from h)]; rfl
  · rw [if_neg h, if_neg (show ¬(b.withWork g).S.stage = .findNextControllerTx from h)]

@[simp] theorem atReply_cfg (b : State) : (atReply b).cfg = b.cfg := by
  unfold atReply; split <;> rfl

@[simp] theorem atReply_work (b : State) : (atReply b).work = b.work := by
  unfold atReply; split <;> rfl

/-- The discovery action changes the stage and the next token destination only. -/
theorem atReply_S (b : State) :
    (atReply b).S = { b.S with
      stage := if b.S.stage = .findNextControllerTx then .findNextControllerRx else b.S.stage
      nextTok := if b.S.stage = .findNextControllerTx then .controller else b.S.nextTok } := by
  unfold atReply
  split
  · rename_i h; simp
  · rfl

/-- The header of every reply (42_fsm_rx.md R179). -/
theorem replyPacket_eq (a : State) (code : BitVec 3) (body : Body) :
    (⟨replySource a, replyToken a, code, body⟩ : Packet) = replyPacket a code body := by
  unfold replyPacket replySource replyToken neighbourAddr
  cases a.S.nextTok <;> rfl

/-- A reply that is built and transmitted, and the end of the transaction. -/
theorem rxEnd_transmit_setReply (a : State) (code : BitVec 3) (body : Body)
    (f : Session → Session) :
    rxEnd (transmit ((a.setReply code body).withS f)) =
      afterReply a (replyPacket a code body) (f a.S) := by
  rw [← replyPacket_eq]
  unfold rxEnd transmit afterReply sent notified
  simp only [State.withS_work, State.setReply_work]
  cases hp : a.work.pending <;>
    simp [State.emit, State.put, State.withWork, State.withS, State.setReply, hp, encodeOf]

theorem rxEnd_transmit_setReply' (a : State) (code : BitVec 3) (body : Body) :
    rxEnd (transmit (a.setReply code body)) =
      afterReply a (replyPacket a code body) a.S :=
  rxEnd_transmit_setReply a code body id

/-- The end of a transaction that transmits nothing. -/
theorem rxEnd_withTurn (b : State) (x : Bool) :
    rxEnd (b.withWork fun w => { w with turn := x }) = afterNoTurn b := by
  unfold rxEnd afterNoTurn notified
  simp only [State.withWork_work]
  cases hp : b.work.pending <;> simp [State.emit, State.put, State.withWork]

/-- The order of the reply alternatives: order 4 (42_fsm_rx.md R181). -/
theorem errorDue_iff (a : State) : errorDue a = true ↔ errorReplyDue a := by
  simp [errorDue, errorReplyDue, isPrimary]

/-! 42_fsm_rx.md R191: what building a Config reply leaves. -/

theorem isDirty_markDirty (d : BitVec 12) (f g : ConfigField) :
    isDirty (markDirty d f) g = (isDirty d g || decide (f = g)) := by
  unfold isDirty markDirty
  rw [BitVec.getLsbD_or]
  congr 1
  cases f <;> cases g <;> decide

theorem momentaryValue_clearMomentary (g : Chg) (e f : ConfigField) :
    momentaryValue (clearMomentary g e) f = (momentaryValue g f && !decide (e = f)) := by
  cases e <;> cases f <;> simp [momentaryValue, clearMomentary]

theorem clearMomentary_common (g : Chg) (e : ConfigField) :
    (clearMomentary g e).common = g.common := by
  cases e <;> rfl

/-- One self-clearing field changes its pending value and its dirty bit only. -/
theorem selfClearOne_eq (applied : BitVec 12) (S : Session) (f : ConfigField) :
    ∃ g d, selfClearOne applied S f = { S with chg := g, dirty := d } ∧
      g.common = S.chg.common ∧
      (∀ x, isDirty d x = (isDirty S.dirty x ||
        (decide (f = x) && isDirty applied x && momentaryValue S.chg x))) ∧
      ∀ x, momentaryValue g x =
        (momentaryValue S.chg x && !(isDirty applied x && decide (f = x))) := by
  unfold selfClearOne
  split
  · rename_i h
    rw [Bool.and_eq_true] at h
    refine ⟨_, _, rfl, clearMomentary_common _ _, ?_, ?_⟩
    · intro x
      rw [isDirty_markDirty]
      by_cases hx : f = x
      · subst hx; simp [h.1, h.2]
      · simp [hx]
    · intro x
      rw [momentaryValue_clearMomentary]
      by_cases hx : f = x
      · subst hx; simp [h.1]
      · simp [hx]
  · rename_i h
    refine ⟨S.chg, S.dirty, rfl, rfl, ?_, ?_⟩
    · intro x
      by_cases hx : f = x
      · subst hx
        rw [Bool.not_eq_true] at h
        simp [h]
      · simp [hx]
    · intro x
      by_cases hx : f = x
      · subst hx
        rw [Bool.not_eq_true, Bool.and_eq_false_iff] at h
        rcases h with h | h <;> simp [h]
      · simp [hx]

/-- A list of self-clearing fields. -/
theorem foldl_selfClearOne (l : List ConfigField) (applied : BitVec 12) (S : Session) :
    ∃ g d, l.foldl (selfClearOne applied) S = { S with chg := g, dirty := d } ∧
      g.common = S.chg.common ∧
      (∀ x, isDirty d x = (isDirty S.dirty x ||
        (decide (x ∈ l) && isDirty applied x && momentaryValue S.chg x))) ∧
      ∀ x, momentaryValue g x =
        (momentaryValue S.chg x && !(isDirty applied x && decide (x ∈ l))) := by
  induction l generalizing S with
  | nil => exact ⟨S.chg, S.dirty, rfl, rfl, fun x => by simp, fun x => by simp⟩
  | cons f l ih =>
    obtain ⟨g1, d1, h1, hc1, hd1, hm1⟩ := selfClearOne_eq applied S f
    obtain ⟨g2, d2, h2, hc2, hd2, hm2⟩ := ih { S with chg := g1, dirty := d1 }
    refine ⟨g2, d2, ?_, hc2.trans hc1, ?_, ?_⟩
    · rw [List.foldl_cons, h1, h2]
    · intro x
      rw [hd2 x]
      simp only [hd1 x, hm1 x, List.mem_cons]
      by_cases hf : f = x
      · subst hf
        cases isDirty applied f <;> simp
      · have hf' : x ≠ f := fun h => hf h.symm
        simp [hf, hf']
    · intro x
      rw [hm2 x]
      simp only [hm1 x, List.mem_cons]
      by_cases hf : f = x
      · subst hf
        cases isDirty applied f <;> simp
      · have hf' : x ≠ f := fun h => hf h.symm
        simp [hf, hf']

/-- What building a Config reply leaves in the session registers (42_fsm_rx.md R190, R191). -/
theorem consumeDirty_eq (l : List ConfigField) (S : Session) :
    ∃ g d, consumeDirty l S = { S with chg := g, dirty := d } ∧ g.common = S.chg.common ∧
      (∀ x, isDirty d x = (decide (x ∈ l) && isDirty S.dirty x && momentaryValue S.chg x)) ∧
      ∀ x, momentaryValue g x =
        (momentaryValue S.chg x && !(isDirty S.dirty x && decide (x ∈ l))) := by
  obtain ⟨g, d, h1, h2, h3, h4⟩ := foldl_selfClearOne l S.dirty { S with dirty := 0 }
  refine ⟨g, d, h1, h2, ?_, h4⟩
  intro x
  rw [h3 x]
  simp [isDirty]

end Sys2Proof.Machine
end

