-- ==== Sys2Proof/Tests/Slice0.lean ====
section
/-! SUPPORT. Tests: the well-formedness checks refuse what they should, words of the spec's own examples
decode to their rows, single steps of the spec's examples, and for every obligation with hypotheses a
state that meets them. Expected values are those of spec/ (the rule is named), not the model's. -/

namespace Sys2Proof.Tests

open Sys2Proof Sys2Proof.Machine

/-! Well-formedness: one ill-formed term for each check (30_encoding.md R77, R92, 70_reset_and_hazards.md
R291, 41_codec_frames.md R131, R145). -/

/-- The reference configuration, Zoned, controller 0, and its Legacy sibling. -/
def cfgZ : Cfg := cfgRef .zoned 0
def cfgL : Cfg := cfgRef .legacy 0

theorem test_cfg_ok : cfgZ.wellFormed = true ∧ cfgL.wellFormed = true := by decide

theorem test_byte_above_7 : (Descriptor.mk 8 0x01 0).byteOk = false := by decide
theorem test_mask_zero : (Descriptor.mk 3 0 0).maskOk = false := by decide
theorem test_mask_gap : (Descriptor.mk 3 0x05 0).maskOk = false := by decide
theorem test_shift_not_lowest : (Descriptor.mk 3 0x0E 0).maskOk = false := by decide
theorem test_width_wrong : (Descriptor.mk 3 0x0E 1).widthOk 2 = false := by decide
theorem test_touches_header : (Descriptor.mk 2 0x18 3).headerFree = false ∧
    (Descriptor.mk 0 0x80 7).headerFree = false ∧ (Descriptor.mk 1 0x40 6).headerFree = false := by decide
theorem test_overlap : pairwiseDisjoint [⟨3, 0x01, 0⟩, ⟨4, 0x03, 0⟩, ⟨4, 0x02, 1⟩] = false := by decide
theorem test_name_missing :
    Layout.namesOk { layoutRef with zoned := { layoutRef.zoned with error := [] } } .zoned .error =
      false := by decide
theorem test_name_twice :
    Layout.kindOk { layoutRef with zoned := { layoutRef.zoned with
      zoneFunctionIU := [(.enabledZones, ⟨3, 0xFF, 0⟩), (.enabledZones, ⟨4, 0x01, 0⟩)] } } .zoned
      .zoneFunctionIU = false := by decide
theorem test_layout_refused :
    Layout.wellFormed { layoutRef with legacy := { layoutRef.legacy with
      error := [(.code, ⟨4, 0x7F, 0⟩)] } } = false := by decide
theorem test_fixup_on_header : fixupHeaderFree { b0 := 0x40 } = false ∧
    fixupHeaderFree { b1 := 0x80 } = false ∧ fixupHeaderFree { b2 := 0x10 } = false := by decide
theorem test_fixup_on_field : fixupFieldFree layoutRef .zoned .error { b4 := 0x80 } = false := by decide
theorem test_fixup_refused :
    Cfg.fixupOk { cfgZ with fixup := [⟨.legacy, 1, .indoorUnit, { b4 := 0x01 }⟩] } = false := by decide
theorem test_default_zones : Cfg.featuresOk { cfgZ with defaultFeatures := { zones := true } } = false := by
  decide
theorem test_depth_zero : Cfg.depthOk { cfgZ with funcQueueDepth := 0 } = false := by decide
theorem test_self_clearing_not_momentary : Cfg.selfClearingOk { cfgZ with selfClearing := [.mode] } = false := by
  decide

/-- A packet of the reference header. -/
def packetTo (role : Role) (code : BitVec 3) (b : Body) : Packet :=
  ⟨⟨role, 0⟩, ⟨.indoorUnit, 1⟩, code, b⟩

theorem test_shape_wrong : (packetTo .controller 0 (.error 0)).shaped cfgZ = false := by decide
theorem test_shape_zone_legacy : (packetTo .controller 5 (.zoneConfig {})).shaped cfgL = false := by decide
theorem test_temp_not_half : tempCanonical .zoned 5453 = false ∧ tempCanonical .zoned 16320 = false ∧
    tempCanonical .legacy 128 = false ∧ tempCanonical .legacy 16256 = false ∧
    tempCanonical .zoned 16256 = true ∧ tempCanonical .legacy 16128 = true := by decide
theorem test_other_role : (packetTo .indoorUnit 0 (.config { ctl := { write := true } })).canonical cfgZ = false ∧
    (packetTo .controller 0 (.config { iu := { error := true } })).canonical cfgZ = false := by decide
theorem test_zones_legacy : (packetTo .indoorUnit 2 (.features { zones := true })).canonical cfgL = false ∧
    (packetTo .indoorUnit 2 (.features { zones := true })).canonical cfgZ = true := by decide
theorem test_write_not_carried :
    (packetTo .indoorUnit 5 (.zoneConfig { write := true })).canonical cfgZ = false ∧
    (packetTo .controller 6 (.zoneFunction { commonZone := true })).canonical cfgZ = false := by decide
theorem test_address_16 :
    ({ packetTo .controller 4 .status with tok := ⟨.controller, 16⟩ } : Packet).canonical cfgZ = false ∧
    ({ packetTo .controller 4 .status with src := ⟨.controller, 16⟩ } : Packet).canonical cfgZ = false := by
  decide
theorem test_ignored_in_field : ignoredOk cfgZ .error { b4 := 0x01 } = false ∧
    ignoredOk cfgZ .error { b0 := 0x20 } = false ∧ ignoredOk cfgZ .error { b1 := 0x80, b3 := 0xFF } = true := by
  decide

/-- The head of a frame from the indoor unit 1 with the token to controller 0, and of one from
controller 0 with the token to the indoor unit 1. -/
def fromIU (last : Bool) : RxHead := ⟨1, .controller, 0, last, { b1 := 0x80 }⟩
def fromC (ignored : Frame) : RxHead := ⟨0, .indoorUnit, 1, false, ignored⟩

theorem test_row_wrong_variant : (Instr.zoneConfigIU (fromIU true) {}).wellFormed cfgL = false ∧
    (Instr.unknown5Legacy (fromIU true) .indoorUnit).wellFormed cfgZ = false ∧
    (Instr.unknown6Legacy (fromIU true) .controller).wellFormed cfgL = true := by decide
theorem test_field_primitives : (Instr.getField ⟨8, 0x01, 0⟩).wellFormed cfgZ = false ∧
    (Instr.setField ⟨3, 0x09, 0⟩ 1).wellFormed cfgZ = false ∧
    (Instr.getField ⟨7, 0x80, 7⟩).wellFormed cfgZ = true := by decide
theorem test_encode_shape : (Instr.encode (packetTo .controller 7 .status)).wellFormed cfgZ = false ∧
    (Instr.encodeLogical (packetTo .indoorUnit 6 .none)).wellFormed cfgZ = false ∧
    (Instr.encode (packetTo .controller 7 .none)).wellFormed cfgZ = true := by decide

/-! Decoding: a word of each row, from the examples of 41_codec_frames.md R132 to R143 (or written by
hand from 30_encoding.md where the row has none). -/

theorem test_decode_configIU :
    decodeFrame cfgZ ⟨0xFE, 0x5F, 0xFD, 0xD8, 0xE9, 0xFF, 0xFF, 0xFE⟩ false =
      .configIU (fromIU false) { enabled := true, mode := 3, fanSpeed := 2, setpoint := 22 }
        { unknownFlags := 2, seenPrimaryController := true } := by decide
theorem test_decode_configIU_locks :
    decodeFrame cfgZ ⟨0xFE, 0x5F, 0xFF, 0x76, 0x67, 0xF7, 0xF7, 0xFF⟩ true =
      .configIU (fromIU true) { enabled := true, mode := 4, setpoint := 24, economy := true }
        { error := true, filterTimerExpired := true, lockSetpoint := true } := by decide
theorem test_decode_configC :
    decodeFrame cfgZ ⟨0xDF, 0x5E, 0xF7, 0xF8, 0xED, 0xBF, 0x54, 0xDF⟩ false =
      .configC ⟨0, .controller, 1, false, { b1 := 0x80, b7 := 0x20 }⟩
        { enabled := true, mode := 3, setpoint := 18 }
        { write := true, resetFilterTimer := true, useControllerSensor := true, temperature := 5504 } := by
  decide
theorem test_decode_configC_legacy :
    decodeFrame cfgL ⟨0xDF, 0x7E, 0xFF, 0xF8, 0xE9, 0xFF, 0xD3, 0xDF⟩ false =
      .configC (fromC { b1 := 0x80, b7 := 0x20 }) { enabled := true, mode := 3, setpoint := 22 }
        { temperature := 5632 } := by decide
theorem test_decode_errorIU :
    decodeFrame cfgZ ⟨0xFE, 0x5F, 0xEF, 0xFF, 0x5C, 0xFF, 0xFF, 0xFF⟩ false = .errorIU (fromIU false) 0xA3 := by
  decide
theorem test_decode_errorC :
    decodeFrame cfgZ ⟨0xDF, 0x7E, 0xEF, 0xFF, 0xFF, 0xFE, 0xFF, 0xFF⟩ false =
      .errorC (fromC { b1 := 0x80, b5 := 0x01 }) 0 := by decide
/-- The features of R135's example: five modes, five speeds, FilterTimer, VerticalLouvers, Zones. -/
def featuresZ : Features := { featuresRef with filterTimer := true, verticalLouvers := true, zones := true }
theorem test_decode_featuresIU :
    decodeFrame cfgZ ⟨0xFE, 0x5F, 0xDF, 0xE0, 0xE0, 0x9E, 0xFF, 0xFF⟩ true =
      .featuresIU (fromIU true) featuresZ := by decide
theorem test_decode_featuresC :
    decodeFrame cfgZ ⟨0xDF, 0x7E, 0xDF, 0xFF, 0xFF, 0xFF, 0xBF, 0xFF⟩ false =
      .featuresC (fromC { b1 := 0x80, b6 := 0x40 }) {} := by decide
theorem test_decode_functionIU :
    decodeFrame cfgZ ⟨0xFE, 0x5F, 0xCF, 0xF4, 0xFD, 0xFE, 0xFF, 0xFF⟩ false =
      .functionIU (fromIU false) ⟨11, 2, 1⟩ := by decide
theorem test_decode_functionC :
    decodeFrame cfgZ ⟨0xDF, 0x7E, 0xCF, 0xF4, 0xFD, 0xFE, 0xFF, 0xFE⟩ false =
      .functionC (fromC { b1 := 0x80, b7 := 0x01 }) ⟨11, 2, 1⟩ := by decide
theorem test_decode_statusIU :
    decodeFrame cfgZ ⟨0xFE, 0x5F, 0xBF, 0xFF, 0xFF, 0xFF, 0xFF, 0xFF⟩ true = .statusIU (fromIU true) := by
  decide
theorem test_decode_statusC :
    decodeFrame cfgZ ⟨0xDF, 0x7E, 0xBF, 0xFF, 0xFF, 0xFF, 0xFF, 0xFF⟩ false =
      .statusC (fromC { b1 := 0x80 }) := by decide
/-- The zone record of R138's example. -/
def zonesEx : ZoneFields := ⟨0x07, 0x63, 0x8C, true, false⟩
theorem test_decode_zoneConfigIU :
    decodeFrame cfgZ ⟨0xFE, 0x5F, 0xAF, 0xF8, 0x5A, 0x6B, 0xFE, 0xFF⟩ true =
      .zoneConfigIU (fromIU true) zonesEx := by decide
theorem test_decode_zoneConfigC :
    decodeFrame cfgZ ⟨0xDF, 0x7E, 0xA7, 0xFA, 0x5A, 0x6B, 0xFF, 0xEF⟩ false =
      .zoneConfigC (fromC { b1 := 0x80, b7 := 0x10 }) ⟨0x05, 0x63, 0x8C, false, false⟩ true := by decide
theorem test_decode_zoneFunctionIU :
    decodeFrame cfgZ ⟨0xFE, 0x5F, 0x9F, 0xF0, 0xFF, 0xFF, 0xFF, 0xFF⟩ true =
      .zoneFunctionIU (fromIU true) { enabledZones := 0x0F } := by decide
theorem test_decode_zoneFunctionC :
    decodeFrame cfgZ ⟨0xDF, 0x7E, 0x9F, 0xFF, 0xFF, 0xFF, 0xFF, 0xF7⟩ false =
      .zoneFunctionC (fromC { b1 := 0x80, b7 := 0x08 }) := by decide
theorem test_decode_unknown7 :
    decodeFrame cfgZ ⟨0xFE, 0x5F, 0x8F, 0xFF, 0xFF, 0xFF, 0xFF, 0xFF⟩ true =
      .unknown7 (fromIU true) .indoorUnit := by decide
theorem test_decode_unknown5Legacy :
    decodeFrame cfgL ⟨0xFE, 0x5F, 0xAF, 0xFF, 0xFF, 0xFF, 0xFF, 0xFF⟩ true =
      .unknown5Legacy (fromIU true) .indoorUnit := by decide
theorem test_decode_unknown6Legacy :
    decodeFrame cfgL ⟨0xDF, 0x7E, 0x9F, 0xFF, 0xFF, 0xFF, 0xFF, 0xFF⟩ true =
      .unknown6Legacy ⟨0, .indoorUnit, 1, true, { b1 := 0x80 }⟩ .controller := by decide
/-- 41_codec_frames.md R130, corner cases. -/
theorem test_decode_all_ones :
    decodeFrame cfgZ ⟨0xFF, 0xFF, 0xFF, 0xFF, 0xFF, 0xFF, 0xFF, 0xFF⟩ false =
      .configIU ⟨0, .indoorUnit, 0, false, {}⟩ {} {} := by decide
theorem test_decode_all_zeros :
    decodeFrame cfgZ ⟨0, 0, 0, 0, 0, 0, 0, 0⟩ true =
      .unknown7 ⟨15, .controller, 15, true, ⟨0xD0, 0xD0, 0x8F, 0xFF, 0xFF, 0xFF, 0xFF, 0xFF⟩⟩ .controller := by
  decide
theorem test_decode_seven_bytes :
    decodeBytes cfgZ [1, 2, 3, 4, 5, 6, 7] true = .error (.notEightBytes 7) := by rfl
/-- 41_codec_frames.md R146, its example. -/
theorem test_encode_of_decode :
    invertFrame (encodeOf cfgZ (decodeLogicalOf cfgZ ⟨0x01, 0x20, 0x00, 0x87, 0x16, 0xE0, 0xE0, 0xFC⟩)) =
      ⟨0x01, 0xA0, 0x00, 0x87, 0x16, 0x00, 0x00, 0x00⟩ := by decide
/-- 41_codec_frames.md R133, its first example. -/
theorem test_encode_configC :
    encodeOf cfgZ (packetTo .controller 0
      (.config ⟨{ enabled := true, mode := 3, setpoint := 22 }, {}, { temperature := 5504 }⟩)) =
        ⟨0xDF, 0x7E, 0xFF, 0xF8, 0xE9, 0xFF, 0xD4, 0xDF⟩ := by decide
/-- 40_codec_primitives.md R117 item 2: a token destination of 16 is stored as 0. -/
theorem test_encode_address_16 :
    (encodeLogicalOf cfgZ ({ packetTo .controller 4 .status with tok := ⟨.controller, 16⟩ } : Packet)).b1 = 0xA0 := by
  decide

/-! Command words (30_encoding.md R100, R101), written by hand or from 43_host_commands.md. -/

theorem test_words_config :
    decodeCmd 0x00000001 = .setEnabled false true ∧ decodeCmd 0x81000000 = .setEconomy true false ∧
    decodeCmd 0x02000001 = .setTestRun false true ∧ decodeCmd 0x83000012 = .setSetpoint true 18 ∧
    decodeCmd 0x04000004 = .setMode false 4 ∧ decodeCmd 0x05000003 = .setFanSpeed false 3 ∧
    decodeCmd 0x06000001 = .setVerticalSwing false true ∧
    decodeCmd 0x07000001 = .setHorizontalSwing false true := by decide
theorem test_words_momentary :
    decodeCmd 0x08000000 = .advanceVerticalLouver false ∧
    decodeCmd 0x89000000 = .advanceHorizontalLouver true ∧ decodeCmd 0x0A000001 = .useSensor false true ∧
    decodeCmd 0x0B000000 = .resetFilter false ∧ decodeCmd 0x0C000000 = .maintenance false := by decide
theorem test_words_zone :
    decodeCmd 0x0D000003 = .setZone false 3 false ∧ decodeCmd 0x0E000103 = .setZoneGroupDay false 3 true ∧
    decodeCmd 0x8F000108 = .setZoneGroupNight true 8 true := by decide
theorem test_words_other :
    decodeCmd 0x10001580 = .setCurrentTemperature false 0x1580 ∧
    decodeCmd 0x1101020B = .queueFunction false ⟨11, 2, 1⟩ ∧ decodeCmd 0x12000000 = .reinit false := by decide
theorem test_words_undefined :
    decodeCmd 0x13000000 = .undefinedOp19 ∧ decodeCmd 0x14FFFFFF = .undefinedOp20 ∧
    decodeCmd 0x95000000 = .undefinedOp21 ∧ decodeCmd 0x16000000 = .undefinedOp22 ∧
    decodeCmd 0x17000000 = .undefinedOp23 ∧ decodeCmd 0x18000000 = .undefinedOp24 ∧
    decodeCmd 0x19000000 = .undefinedOp25 ∧ decodeCmd 0x1A000000 = .undefinedOp26 ∧
    decodeCmd 0x1B000000 = .undefinedOp27 ∧ decodeCmd 0x1C000000 = .undefinedOp28 ∧
    decodeCmd 0x1D000000 = .undefinedOp29 ∧ decodeCmd 0x1E000000 = .undefinedOp30 ∧
    decodeCmd 0xFF123456 = .undefinedOp31 := by decide
/-- Bits 30 and 29 are ignored (R100). -/
theorem test_words_ignored : decodeCmd 0x63000012 = decodeCmd 0x03000012 := by decide
/-- The encoder writes the same words. -/
theorem test_encode_words :
    encode cfgZ (.setZoneGroupDay false 3 true) = some (.cmd 0x0E000103) ∧
    encode cfgZ (.queueFunction false ⟨11, 2, 1⟩) = some (.cmd 0x1101020B) ∧
    encode cfgZ (.setSetpoint true 18) = some (.cmd 0x83000012) ∧
    encode cfgZ (.zoneFunctionC (fromC { b1 := 0x80, b7 := 0x08 })) =
      some (.rx ⟨0xDF, 0x7E, 0x9F, 0xFF, 0xFF, 0xFF, 0xFF, 0xF7⟩ false) ∧
    encode cfgZ .featuresReq = none := by decide
/-- The host's numbering of a row's bits: the logical frame of R134's example, and a command word. -/
theorem test_table_words :
    decodeTableWord 64 0x000000A30010A001 = some (.errorIU ⟨1, .controller, 0, false, { b1 := 0x80 }⟩ 0xA3) ∧
    decodeTableWord 32 0x0B000000 = some (.resetFilter false) ∧ decodeTableWord 16 0 = none := by decide


/-! Single steps, with the expected values of the spec's examples. -/

/-- The trace, the session registers and the transients after an instruction; the start values of a
block where it stops (no instruction does). -/
def outsAfter (i : Instr) (s : State) : List Output :=
  match exec i s with
  | .next t => t.ports.out
  | .fault _ => []
  | .refused _ => []
def sessionAfter (i : Instr) (s : State) : Session :=
  match exec i s with
  | .next t => t.S
  | .fault _ => Session.reset
  | .refused _ => Session.reset
def workAfter (i : Instr) (s : State) : Transients :=
  match exec i s with
  | .next t => t.work
  | .fault _ => {}
  | .refused _ => {}

/-- A block with the given registers and empty ports. -/
def stateOf (c : Cfg) (S : Session) : State := { State.resetWith c with S := S }

/-- The device record of 42_fsm_rx.md R160's example, and its session: `Complete`, no dirty bit. -/
def common160 : ConfigCommon := { enabled := true, mode := 3, setpoint := 22 }
def session160 : Session := { stage := .complete, features := featuresRef, cur := { common := common160 } }
def zoneSession : Session :=
  { session160 with features := featuresZ, zoneEnabled := 0x0F, zcur := zonesEx }
def st160 : State := stateOf cfgZ session160
def stZone : State := stateOf cfgZ zoneSession

/-- What one transmission puts on the trace, from the spec's logical frame. -/
def sentFrame (l : Frame) : List Output := [.tx (invertFrame l).toPort, .evt (.rawTx l)]

/-- 42_fsm_rx.md R160, its example. -/
theorem test_configIU_poll :
    outsAfter (.configIU (fromIU true) common160 {}) st160 =
      .evt (.rawRx ⟨0x01, 0xA0, 0x00, 0x07, 0x16, 0, 0, 0⟩) ::
        sentFrame ⟨0x20, 0x81, 0x00, 0x07, 0x16, 0, 0, 0x20⟩ ++
        [.evt (.configUpdate { common := common160 })] := by decide
/-- The codes on the EVT port, by the table of 30_encoding.md R102: `RawRx`, `RawTx`, `ConfigUpdate`. -/
theorem test_event_codes :
    (evtPort (outsAfter (.configIU (fromIU true) common160 {}) st160)).map Prod.fst = [0, 1, 3] := by decide
/-- 42_fsm_rx.md R166, its first example: the first frame after reset. -/
theorem test_configIU_detect :
    outsAfter (.configIU (fromIU true) common160 { unknownFlags := 2 }) State.reset =
      [.evt (.rawRx ⟨0x01, 0xA0, 0x02, 0x07, 0x16, 0, 0, 0⟩),
        .evt (.stageChanged .findNextControllerTx featuresRef),
        .evt (.stageChanged .findNextControllerRx featuresRef)] ++
        sentFrame ⟨0x20, 0xA1, 0x00, 0x07, 0x16, 0, 0, 0x20⟩ ++
        [.evt (.configUpdate { common := common160, iu := { unknownFlags := 2 } })] := by decide
/-- 42_fsm_rx.md R163, the neighbour present: no turn, the token destination kept. -/
theorem test_configC_neighbour :
    let s := stateOf cfgZ { session160 with stage := .findNextControllerRx, nextTok := .controller }
    let i : Instr := .configC ⟨1, .indoorUnit, 1, true, { b1 := 0x80, b7 := 0x20 }⟩ common160
      { temperature := 5888 }
    outsAfter i s =
        [.evt (.rawRx ⟨0x21, 0x81, 0x00, 0x07, 0x16, 0, 0x2E, 0x20⟩), .evt (.stageChanged .complete featuresRef),
          .evt (.remoteControllerConfig 1 { common := common160, ctl := { temperature := 5888 } })] ∧
      (sessionAfter i s).nextTok = .controller := by decide
/-- 42_fsm_rx.md R169: `last = 0`, no reply. -/
theorem test_errorIU :
    outsAfter (.errorIU (fromIU false) 0xA3) st160 =
      [.evt (.rawRx ⟨0x01, 0xA0, 0x10, 0x00, 0xA3, 0, 0, 0⟩), .evt (.error 0xA3)] := by decide
/-- 42_fsm_rx.md R184, the second example: controller 1 echoes an Error, no deferred event. -/
theorem test_errorC_echo :
    outsAfter (.errorC ⟨0, .controller, 1, true, { b1 := 0x80, b5 := 0x01 }⟩ 0)
        (stateOf (cfgRef .zoned 1) session160) =
      .evt (.rawRx ⟨0x20, 0xA1, 0x10, 0, 0, 0x01, 0, 0⟩) ::
        sentFrame ⟨0x21, 0x81, 0x10, 0, 0, 0x01, 0, 0⟩ := by decide
/-- 42_fsm_rx.md R184, the first example: the primary, the error flag changed. -/
theorem test_configIU_error :
    (outsAfter (.configIU (fromIU true) common160 { error := true }) st160).drop 1 =
      sentFrame ⟨0x20, 0x81, 0x10, 0, 0, 0x01, 0, 0⟩ ++
        [.evt (.configUpdate { common := common160, iu := { error := true } })] := by decide
/-- 42_fsm_rx.md R170, its example, Zoned. -/
theorem test_featuresIU_zoned :
    (outsAfter (.featuresIU (fromIU true) featuresZ)
        (stateOf cfgZ { Session.reset with stage := .featureRequest })).drop 1 =
      .evt (.stageChanged .zoneRequestEnabled featuresZ) ::
        sentFrame ⟨0x20, 0x81, 0x60, 0, 0, 0, 0, 0x08⟩ := by decide
/-- 42_fsm_rx.md R170, its example, Legacy. -/
theorem test_featuresIU_legacy :
    framesSent (outsAfter (.featuresIU (fromIU true) featuresRef)
        (stateOf cfgL { Session.reset with stage := .featureRequest })) =
      [invertFrame ⟨0x20, 0xA1, 0, 0, 0, 0, 0, 0x20⟩] := by decide
/-- 42_fsm_rx.md R177: the features of another controller are not taken. -/
theorem test_featuresC :
    (sessionAfter (.featuresC (fromC { b1 := 0x80, b6 := 0x40 }) featuresZ)
        (stateOf cfgZ { Session.reset with stage := .featureRequest })) =
      { Session.reset with stage := .featureRequest } := by decide
/-- 42_fsm_rx.md R171. -/
theorem test_functionIU :
    (outsAfter (.functionIU (fromIU false) ⟨11, 2, 1⟩) st160).drop 1 =
      [.evt (.functionReceived ⟨11, 2, 1⟩)] := by decide
/-- 42_fsm_rx.md R177, R195. -/
theorem test_functionC :
    (outsAfter (.functionC (fromC { b1 := 0x80, b7 := 0x01 }) ⟨11, 2, 1⟩) st160).drop 1 = [] := by decide
/-- 42_fsm_rx.md R188, its example: the queued request goes out and leaves the queue. -/
theorem test_statusIU_function :
    let s := stateOf cfgZ { session160 with funcq := [⟨11, 2, 1⟩] }
    (outsAfter (.statusIU (fromIU true)) s).drop 1 = sentFrame ⟨0x20, 0x81, 0x30, 0x0B, 0x02, 0x01, 0, 0x01⟩ ∧
      sessionAfter (.statusIU (fromIU true)) s = session160 := by decide
/-- 42_fsm_rx.md R190, its example: the pending setpoint is written once. -/
theorem test_statusIU_write :
    let s := stateOf cfgZ { session160 with chg := { common := { setpoint := 18 } }, dirty := 0b100 }
    (outsAfter (.statusIU (fromIU true)) s).drop 1 = sentFrame ⟨0x20, 0x81, 0x08, 0x07, 0x12, 0, 0, 0x20⟩ ∧
      (sessionAfter (.statusIU (fromIU true)) s).dirty = 0 := by decide
/-- 42_fsm_rx.md R191, turn 1: the flag is sent, then dirty with value 0. -/
theorem test_statusC_self_clearing :
    let s := stateOf cfgZ { session160 with chg := { resetFilterTimer := true }, dirty := 0x400 }
    let i : Instr := .statusC ⟨1, .controller, 0, true, { b1 := 0x80 }⟩
    (outsAfter i s).drop 1 = sentFrame ⟨0x20, 0x81, 0x08, 0x07, 0x16, 0x40, 0, 0x20⟩ ∧
      (sessionAfter i s).dirty = 0x400 ∧ (sessionAfter i s).chg.resetFilterTimer = false := by decide
/-- 42_fsm_rx.md R174, its example: the reply stands before the deferred notification. -/
theorem test_zoneConfigIU :
    (outsAfter (.zoneConfigIU (fromIU true) zonesEx)
        (stateOf cfgZ { zoneSession with stage := .zoneRequestActive, zcur := {} })).drop 1 =
      .evt (.stageChanged .complete featuresZ) :: sentFrame ⟨0x20, 0x81, 0, 0x07, 0x16, 0, 0, 0x20⟩ ++
        [.evt (.zoneConfigUpdate zonesEx)] := by decide
/-- 42_fsm_rx.md R187, its example. -/
theorem test_zone_write :
    let s := stateOf cfgZ { zoneSession with zchg := { activeZones := 0x06 }, zdirty := 0b11001 }
    (outsAfter (.statusIU (fromIU true)) s).drop 1 = sentFrame ⟨0x20, 0x81, 0x58, 0x06, 0xA5, 0x94, 0, 0x10⟩ ∧
      sessionAfter (.statusIU (fromIU true)) s = { zoneSession with zchg := { activeZones := 0x06 } } := by
  decide
/-- 42_fsm_rx.md R177: a zone write of another controller changes nothing here. -/
theorem test_zoneConfigC :
    sessionAfter (.zoneConfigC (fromC { b1 := 0x80, b7 := 0x10 }) { activeZones := 0x55 } true) stZone =
      zoneSession := by decide
/-- 42_fsm_rx.md R172, its example. -/
theorem test_zoneFunctionIU :
    let s := stateOf cfgZ { Session.reset with stage := .zoneRequestEnabled, features := featuresZ }
    let i : Instr := .zoneFunctionIU (fromIU true) { enabledZones := 0x0F }
    (outsAfter i s).drop 1 =
        [.evt (.stageChanged .findNextControllerTx featuresZ), .evt (.stageChanged .findNextControllerRx featuresZ)] ++
          sentFrame ⟨0x20, 0xA1, 0, 0, 0, 0, 0, 0x20⟩ ∧
      (sessionAfter i s).zoneEnabled = 0x0F := by decide
/-- 42_fsm_rx.md R186, its example: in `ZoneRequestActive` every turn asks again. -/
theorem test_zoneFunctionC_request :
    (outsAfter (.zoneFunctionC ⟨2, .controller, 0, true, { b1 := 0x80, b7 := 0x08 }⟩)
        (stateOf cfgZ { zoneSession with stage := .zoneRequestActive })).drop 1 =
      sentFrame ⟨0x20, 0x81, 0x50, 0, 0, 0, 0, 0x10⟩ := by decide
/-- 42_fsm_rx.md R177, 30_encoding.md R75: an unknown frame gives the turn all the same. -/
theorem test_unknown7 :
    framesSent (outsAfter (.unknown7 (fromIU true) .indoorUnit) st160) =
      [invertFrame ⟨0x20, 0x81, 0x00, 0x07, 0x16, 0, 0, 0x20⟩] := by decide
theorem test_unknown5_ends_discovery :
    sessionAfter (.unknown5Legacy (fromIU false) .indoorUnit)
        (stateOf cfgL { session160 with stage := .findNextControllerRx, nextTok := .controller }) =
      session160 := by decide
theorem test_unknown6_no_turn :
    outsAfter (.unknown6Legacy (fromC { b1 := 0x80, b3 := 0x0F }) .controller) (stateOf cfgL session160) =
      [.evt (.rawRx ⟨0x20, 0x81, 0x60, 0x0F, 0, 0, 0, 0⟩)] := by decide
/-- 42_fsm_rx.md R160: the same frame on the port. -/
theorem test_rxFrame :
    outsAfter (.rxFrame ⟨0xFE, 0x5F, 0xFF, 0xF8, 0xE9, 0xFF, 0xFF, 0xFF⟩ true) st160 =
      outsAfter (.configIU (fromIU true) common160 {}) st160 := by decide

/-- An accepted configuration command on the state of R160: the one register and the one dirty bit. -/
def acceptedWith (i : Instr) (S : Session) (chg : Chg) (dirty : BitVec 12) : Bool :=
  decide (sessionAfter i (stateOf cfgZ S) = { S with chg := chg, dirty := dirty }) &&
    decide (outsAfter i (stateOf cfgZ S) = [.cmdAccept true])
/-- A rejected command: no register changes. -/
def rejectedIn (i : Instr) (S : Session) : Bool :=
  decide (sessionAfter i (stateOf cfgZ S) = S) &&
    decide (outsAfter i (stateOf cfgZ S) = [.cmdAccept false])
/-- The session with every feature. -/
def fullSession : Session :=
  { session160 with features := { featuresZ with
      sensorSwitching := true, maintenance := true, economyMode := true, horizontalLouvers := true } }
/-- The session with one lock flag reported by the device. -/
def lockedSession (iu : IUSub) : Session := { fullSession with cur := { common := common160, iu := iu } }

theorem test_setEnabled :
    acceptedWith (.setEnabled false true) session160 { common := { enabled := true } } 0x001 = true ∧
    rejectedIn (.setEnabled false true) (lockedSession { lockEnabled := true }) = true := by decide
/-- 43_host_commands.md R215: `EconomyMode = 0` in the default features. -/
theorem test_setEconomy :
    rejectedIn (.setEconomy false true) session160 = true ∧
    acceptedWith (.setEconomy false true) fullSession { common := { economy := true } } 0x002 = true := by
  decide
theorem test_setTestRun :
    acceptedWith (.setTestRun false true) session160 { common := { testRun := true } } 0x008 = true := by
  decide
/-- 43_host_commands.md R217, its examples. -/
theorem test_setSetpoint :
    acceptedWith (.setSetpoint false 16) session160 { common := { setpoint := 16 } } 0x004 = true ∧
    rejectedIn (.setSetpoint false 15) session160 = true ∧ rejectedIn (.setSetpoint false 31) session160 = true ∧
    rejectedIn (.setSetpoint false 146) session160 = true := by decide
theorem test_setSetpoint_override :
    rejectedIn (.setSetpoint false 18) (lockedSession { lockSetpoint := true }) = true ∧
    rejectedIn (.setSetpoint true 31) (lockedSession { lockSetpoint := true }) = true ∧
    acceptedWith (.setSetpoint true 18) (lockedSession { lockSetpoint := true })
      { common := { setpoint := 18 } } 0x004 = true := by decide
/-- 43_host_commands.md R218, its examples: `ModeCool = 1`, `ModeHeat = 0`. -/
theorem test_setMode :
    let S := { session160 with features := { modeCool := true } }
    acceptedWith (.setMode false 3) S { common := { mode := 3 } } 0x010 = true ∧
    rejectedIn (.setMode false 4) S = true ∧ rejectedIn (.setMode false 0) S = true ∧
    rejectedIn (.setMode true 4) S = true := by decide
theorem test_setFanSpeed :
    acceptedWith (.setFanSpeed false 4) session160 { common := { fanSpeed := 4 } } 0x020 = true ∧
    rejectedIn (.setFanSpeed false 5) session160 = true := by decide
theorem test_setSwing :
    acceptedWith (.setVerticalSwing false true) fullSession { common := { swingVertical := true } } 0x040 =
      true ∧
    acceptedWith (.setHorizontalSwing false true) fullSession { common := { swingHorizontal := true } } 0x080 =
      true := by decide
theorem test_advanceLouvers :
    acceptedWith (.advanceVerticalLouver false) fullSession { advanceVerticalLouver := true } 0x100 = true ∧
    acceptedWith (.advanceHorizontalLouver false) fullSession { advanceHorizontalLouver := true } 0x200 =
      true ∧
    rejectedIn (.advanceHorizontalLouver false) zoneSession = true := by decide
theorem test_resetFilter_maintenance :
    acceptedWith (.resetFilter false) fullSession { resetFilterTimer := true } 0x400 = true ∧
    acceptedWith (.maintenance false) fullSession { maintenance := true } 0x800 = true ∧
    rejectedIn (.resetFilter false) (lockedSession { lockFilterReset := true }) = true := by decide
/-- 43_host_commands.md R224: no dirty bit. -/
theorem test_useSensor :
    sessionAfter (.useSensor false true) (stateOf cfgZ fullSession) =
      { fullSession with cur := { common := common160, ctl := { useControllerSensor := true } } } := by decide
/-- 43_host_commands.md R228, its examples: 21.5, -3.0 and 75.0 degrees. -/
theorem test_setCurrentTemperature :
    (sessionAfter (.setCurrentTemperature false 0x1580) st160).cur.ctl.temperature = 5504 ∧
    (sessionAfter (.setCurrentTemperature false 0xFD00) st160).cur.ctl.temperature = 0 ∧
    (sessionAfter (.setCurrentTemperature false 0x4B00) st160).cur.ctl.temperature = 15360 := by decide
/-- 43_host_commands.md R229, its examples: the last active zone; the two group flags. -/
theorem test_setZone_last :
    rejectedIn (.setZone false 3 false) { zoneSession with zcur := { activeZones := 0x04 } } = true ∧
    rejectedIn (.setZone false 5 true) zoneSession = true := by decide
theorem test_setZone :
    sessionAfter (.setZone false 1 false) stZone =
      { zoneSession with zchg := { activeZones := 0x06 }, zdirty := 0b11001 } := by decide
/-- 43_host_commands.md R230 and R231, their examples. -/
theorem test_setZoneGroups :
    sessionAfter (.setZoneGroupDay false 3 true) stZone =
      { zoneSession with zchg := { zoneGroupDay := 0x67 }, zdirty := 0b11010 } ∧
    sessionAfter (.setZoneGroupNight false 3 false) stZone =
      { zoneSession with zchg := { zoneGroupNight := 0x88 }, zdirty := 0b11100 } := by decide
/-- 43_host_commands.md R233: depth 4. -/
theorem test_queueFunction :
    sessionAfter (.queueFunction false ⟨11, 2, 1⟩) st160 = { session160 with funcq := [⟨11, 2, 1⟩] } ∧
    rejectedIn (.queueFunction false ⟨11, 2, 1⟩) { session160 with funcq := List.replicate 4 {} } = true := by
  decide
/-- 43_host_commands.md R232, its example: the pending setpoint is kept. -/
theorem test_reinit :
    let s := stateOf cfgZ { session160 with chg := { common := { setpoint := 18 } }, dirty := 0b100 }
    outsAfter (.reinit false) s =
        [.evt (.stageChanged .detectFeatureSupport {}), .cmdAccept true] ∧
      sessionAfter (.reinit false) s =
        { Session.reset with chg := { common := { setpoint := 18 } }, dirty := 0b100 } := by decide
theorem test_undefined_rejected :
    rejectedIn .undefinedOp19 session160 = true ∧ rejectedIn .undefinedOp31 session160 = true := by decide

/-! The primitives, with the examples of 40_codec_primitives.md. -/

theorem test_invert :
    (workAfter (.invert ⟨0xDF, 0x7E, 0xFF, 0xF8, 0xE9, 0xFF, 0xFF, 0xDF⟩) st160).result =
      .frame ⟨0x20, 0x81, 0x00, 0x07, 0x16, 0x00, 0x00, 0x20⟩ := by decide
/-- A state whose buffer is the frame given. -/
def withBuf (f : Frame) : State := withBuffer f st160
theorem test_getField :
    (workAfter (.getField ⟨3, 0x0E, 1⟩) (withBuf ⟨0x20, 0x81, 0x00, 0x07, 0x16, 0x00, 0x00, 0x20⟩)).result =
      .byte 3 := by decide
theorem test_setField :
    (workAfter (.setField ⟨3, 0x0E, 1⟩ 3) (withBuf { b3 := 0x01 })).buf = { b3 := 0x07 } ∧
    (workAfter (.setField ⟨3, 0x0E, 1⟩ 9) (withBuf { b3 := 0x10 })).buf = { b3 := 0x12 } := by decide
theorem test_extract :
    (workAfter (.extract 0x9C .even) st160).result = .nibble 0x6 ∧
    (workAfter (.extract 0x9C .odd) st160).result = .nibble 0xA := by decide
theorem test_interleave :
    (workAfter (.interleave 0x6 .even) st160).result = .byte 0x14 ∧
    (workAfter (.interleave 0xFA .odd) st160).result = .byte 0x88 := by decide
theorem test_temperature :
    (workAfter (.tempPackZ 5504) st160).result = .packed 43 ∧
    (workAfter (.tempUnpackZ 43) st160).result = .temp 5504 ∧
    (workAfter (.tempPackL 5504) st160).result = .packed 22 ∧
    (workAfter (.tempUnpackL 22) st160).result = .temp 5632 := by decide
theorem test_decode_encode :
    (workAfter (.decode ⟨0xDF, 0x7E, 0xEF, 0xFF, 0xFF, 0xFE, 0xFF, 0xFF⟩) st160).result =
      .packet (packetTo .controller 1 (.error 0)) ∧
    (workAfter (.encode (packetTo .controller 1 (.error 0))) st160).result =
      .frame ⟨0xDF, 0x7E, 0xEF, 0xFF, 0xFF, 0xFE, 0xFF, 0xFF⟩ ∧
    (workAfter (.encodeLogical (packetTo .controller 6 (.zoneFunction {}))) st160).result =
      .frame ⟨0x20, 0x81, 0x60, 0, 0, 0, 0, 0x08⟩ := by decide
/-- Where the turn is held, the pseudo-forms send the frames of 42_fsm_rx.md R166, R170 and R186. -/
def holdsTurn : State := { st160 with work := { turn := true } }
theorem test_pseudoForms :
    outsAfter .featuresReq holdsTurn = sentFrame ⟨0x20, 0x81, 0x20, 0, 0, 0, 0x40, 0⟩ ∧
    outsAfter .zoneFunctionReq holdsTurn = sentFrame ⟨0x20, 0x81, 0x60, 0, 0, 0, 0, 0x08⟩ ∧
    outsAfter .zoneConfigReq holdsTurn = sentFrame ⟨0x20, 0x81, 0x50, 0, 0, 0, 0, 0x10⟩ ∧
    outsAfter .featuresReq st160 = [] := by decide

/-! The step. -/

/-- The trace after one step. -/
def outsOfStep (s : State) : List Output :=
  match step s with
  | .next t => t.ports.out
  | .fault _ => []
  | .refused _ => []
theorem test_step_frame :
    outsOfStep (State.reset.withFetchWord 64 0x000000A30010A001) =
      [.evt (.rawRx ⟨0x01, 0xA0, 0x10, 0x00, 0xA3, 0, 0, 0⟩), .evt (.error 0xA3)] := by decide
theorem test_step_command :
    outsOfStep (State.reset.withFetchWord 32 0x00000001) = [.cmdAccept true] := by decide

/-! Witnesses: for each obligation that has hypotheses, a state and operands that meet them, each clause
at a boundary of its range. -/

/-- The state a step leads to; the given one where it stops. -/
def stepOf (s : State) : State :=
  match step s with
  | .next t => t
  | .fault _ => s
  | .refused _ => s

/-- The highest and the lowest operands: a frame from controller 15 and one from the indoor unit 0. -/
def lowPacket : Packet := ⟨{}, {}, 0, .config {}⟩
def highPacket : Packet :=
  ⟨⟨.controller, 15⟩, ⟨.controller, 15⟩, 0, .config
    ⟨⟨true, true, 127, true, 7, 7, true, true⟩, {}, ⟨true, 16256, true, true, true, true, true⟩⟩⟩
theorem test_witness_DecodeOfEncode :
    cfgZ.wellFormed = true ∧ cfgL.wellFormed = true ∧ lowPacket.canonical cfgZ = true ∧
    highPacket.canonical cfgZ = true ∧ lowPacket.canonical cfgL = true ∧
    (packetTo .controller 7 .none).canonical cfgL = true := by decide
theorem test_witness_EncodeOfDecode : (cfgRef .zoned 15).wellFormed = true ∧ cfgL.wellFormed = true := by decide
/-- A frame row with every operand at its highest value, and all the bits no field covers. -/
def highRow : Instr :=
  .errorIU ⟨15, .controller, 15, true, ⟨0xD0, 0xD0, 0x8F, 0xFF, 0, 0xFF, 0xFF, 0xFF⟩⟩ 0xFF
theorem test_witness_FrameRowsRoundTrip :
    highRow.received = some (⟨15, .controller, 15, true, ⟨0xD0, 0xD0, 0x8F, 0xFF, 0, 0xFF, 0xFF, 0xFF⟩⟩,
      ⟨⟨.indoorUnit, 15⟩, ⟨.controller, 15⟩, 1, .error 0xFF⟩) ∧
    highRow.wellFormed cfgZ = true ∧ highRow.wellFormed cfgL = true ∧ cfgZ.wellFormed = true ∧
    (Instr.unknown6Legacy (fromIU true) .controller).wellFormed cfgL = true := by decide
theorem test_witness_EveryFrameDecodes : (cfgRef .legacy 15).wellFormed = true := by decide
theorem test_witness_CommandsRoundTrip :
    encode cfgZ (.setSetpoint true 255) = some (.cmd 0x830000FF) ∧
    encode cfgZ .undefinedOp31 = some (.cmd 0x1F000000) := by decide
theorem test_witness_IgnoredCommandBits :
    let w : BitVec 32 := 0x80000001
    let x : BitVec 32 := 0xE0FFFFFF
    w.getLsbD 31 = x.getLsbD 31 ∧ w.extractLsb' 24 5 = x.extractLsb' 24 5 ∧
      w.extractLsb' 0 24 &&& namedArg (w.extractLsb' 24 5) =
        x.extractLsb' 0 24 &&& namedArg (w.extractLsb' 24 5) := by decide
theorem test_witness_GetField :
    (Descriptor.mk 7 0x80 7).byteOk = true ∧ (Descriptor.mk 7 0x80 7).maskOk = true ∧
    (Descriptor.mk 0 0xFF 0).byteOk = true ∧ (Descriptor.mk 0 0xFF 0).maskOk = true ∧
    Frame.lane { b7 := 0xFF } 7 &&& 0x80 = Frame.lane { b7 := 0x80, b0 := 1 } 7 &&& 0x80 := by decide
theorem test_witness_SetField :
    (Descriptor.mk 7 0x80 7).byteOk = true ∧ (Descriptor.mk 7 0x80 7).maskOk = true ∧
    (Descriptor.mk 0 0xFF 0).byteOk = true ∧ (Descriptor.mk 0 0xFF 0).maskOk = true ∧
    st160.work.buf.lane 7 &&& 0x80 = 0 ∧ (withBuf { b7 := 0x7F }).work.buf.lane 7 &&& 0x80 = 0 ∧
    (0 : Nat) ≠ 7 := by decide
theorem test_witness_Invert : (0 : Nat) ≤ 7 ∧ (7 : Nat) ≤ 7 ∧ Frame.zero = {} := by decide
theorem test_witness_ExtractInterleave : (0 : Nat) < 4 ∧ (3 : Nat) < 4 := by decide
theorem test_witness_PairLaws : Parity.odd ≠ Parity.even := by decide
theorem test_witness_GroupMaps : (0 : Nat) < 4 ∧ (3 : Nat) < 4 := by decide
theorem test_witness_DecodeOfEncode_other : (stateOf cfgZ zoneSession).cfg = st160.cfg := by rfl
theorem test_witness_DecodeHeader :
    isKind .zoned 0 .indoorUnit .configIU ∧ isKind .legacy 0 .controller .configC ∧
    isKind .legacy 1 .controller .error ∧ isKind .zoned 2 .indoorUnit .features ∧
    isKind .zoned 3 .controller .function ∧ isKind .legacy 4 .indoorUnit .status ∧
    isKind .zoned 5 .indoorUnit .zoneConfigIU ∧ isKind .zoned 5 .controller .zoneConfigC ∧
    isKind .zoned 6 .indoorUnit .zoneFunctionIU ∧ isKind .zoned 6 .controller .zoneFunctionC ∧
    isKind .zoned 7 .indoorUnit .unknown ∧ isKind .legacy 5 .controller .unknown ∧
    isKind .legacy 6 .indoorUnit .unknown := by unfold isKind; decide
theorem test_witness_EncodeFrame :
    st160.cfg.wellFormed = true ∧ FieldName.setpoint ∈ fieldsOf .zoned (packetKind st160.cfg highPacket) ∧
    isKind st160.cfg.variant highPacket.typeCode highPacket.src.role (packetKind st160.cfg highPacket) ∧
    isKind st160.cfg.variant 4 .indoorUnit .status ∧ isKind st160.cfg.variant 6 .controller .zoneFunctionC ∧
    isKind st160.cfg.variant 7 .controller .unknown ∧ (3 : Nat) ≤ 3 ∧ (7 : Nat) ≤ 7 :=
  ⟨by decide, by decide, (isKind_iff _ _ _ _).2 rfl, (isKind_iff _ _ _ _).2 rfl, (isKind_iff _ _ _ _).2 rfl,
    (isKind_iff _ _ _ _).2 rfl, by decide, by decide⟩
theorem test_witness_PseudoForms :
    (Instr.featuresReq = .featuresReq ∧
      (⟨⟨.controller, 0⟩, ⟨.indoorUnit, 1⟩, 2, .features {}⟩ : Packet) = replyPacket st160 2 (.features {})) ∧
    (⟨⟨.controller, 0⟩, ⟨.indoorUnit, 1⟩, 6, .zoneFunction {}⟩ : Packet) =
      replyPacket st160 6 (.zoneFunction {}) ∧
    (⟨⟨.controller, 0⟩, ⟨.indoorUnit, 1⟩, 5, .zoneConfig {}⟩ : Packet) =
      replyPacket holdsTurn 5 (.zoneConfig {}) ∧
    st160.work.turn = false ∧ holdsTurn.work.turn = true := by decide
theorem test_witness_RxFrameIsItsRow : st160.cfg.wellFormed = true := by decide

/-- A block in a stage. -/
def inStage (c : Cfg) (st : Stage) : State := stateOf c { session160 with stage := st }
theorem test_witness_ControllerRows :
    Instr.statusC (fromC {}) ∈ [Instr.featuresC (fromC {}) {}, .functionC (fromC {}) {}, .statusC (fromC {}),
      .zoneConfigC (fromC {}) {} true, .zoneFunctionC (fromC {}), .unknown7 (fromC {}) .controller,
      .unknown5Legacy (fromC {}) .controller, .unknown6Legacy (fromC {}) .controller] := by decide
theorem test_witness_FeaturesRow :
    (inStage cfgZ .featureRequest).S.stage = .featureRequest ∧ st160.S.stage ≠ .featureRequest := by decide
theorem test_witness_ZoneFunctionRow :
    (inStage cfgZ .zoneRequestEnabled).cfg.variant = .zoned ∧
    (inStage cfgZ .zoneRequestEnabled).S.stage = .zoneRequestEnabled ∧
    (inStage cfgL .zoneRequestEnabled).cfg.variant = .legacy ∧ st160.S.stage ≠ .zoneRequestEnabled := by decide
theorem test_witness_ZoneConfigRow :
    let i : Instr := .zoneConfigIU (fromIU true) zonesEx
    (step1Of i (inStage cfgZ .zoneRequestActive)).S.stage = .zoneRequestActive ∧
    (step1Of i (stateOf cfgZ { zoneSession with stage := .findNextControllerRx })).S.stage =
      .zoneRequestActive ∧
    (step1Of i st160).S.stage ≠ .zoneRequestActive ∧ st160.cfg.variant = .zoned ∧
    (inStage cfgL .complete).cfg.variant = .legacy := by decide
theorem test_witness_NeighbourDiscovery :
    highRow.received ≠ none ∧ (Instr.configC (fromC {}) {} {}).received ≠ none ∧
    (inStage cfgZ .findNextControllerRx).S.stage = .findNextControllerRx ∧
    (inStage cfgL .findNextControllerRx).S.stage = .findNextControllerRx := by decide

/-- The token destination of a frame that gives the turn to controller 0, and one to controller 15. -/
def tok0 : Address := ⟨.controller, 0⟩
def tok15 : Address := ⟨.controller, 15⟩
theorem test_witness_TurnCondition :
    ownsTurn cfgZ tok0 true ∧ ownsTurn (cfgRef .legacy 15) tok15 true ∧ ¬ownsTurn cfgZ tok0 false ∧
    ¬ownsTurn cfgZ tok15 true ∧ ¬ownsTurn cfgZ ⟨.indoorUnit, 0⟩ true := by
  unfold ownsTurn; decide
theorem test_witness_RequestReplies :
    ownsTurn cfgZ tok0 true ∧ (inStage cfgZ .featureRequest).S.stage = .featureRequest ∧
    (inStage cfgZ .zoneRequestEnabled).S.stage = .zoneRequestEnabled ∧
    (inStage cfgZ .zoneRequestActive).S.stage = .zoneRequestActive := by
  unfold ownsTurn; decide

/-- After step 2 of a frame that changed the error flag, at the primary; that observed an Error packet,
at controller 15. -/
def errorAtPrimary : State := { st160 with work := { errChanged := true } }
def errorAtOther : State :=
  { inStage (cfgRef .legacy 15) .findNextControllerTx with work := { errObserved := true } }
theorem test_witness_ErrorReply :
    ownsTurn errorAtPrimary.cfg tok0 true ∧ ¬requestStage (atReply errorAtPrimary).S.stage ∧
    errorReplyDue errorAtPrimary ∧ ownsTurn errorAtOther.cfg tok15 true ∧
    ¬requestStage (atReply errorAtOther).S.stage ∧ errorReplyDue errorAtOther := by
  unfold ownsTurn requestStage errorReplyDue; decide

/-- A zone change pending, a request queued, a field dirty: each in the stage that the turn leaves and in
`Complete`. -/
def zonePending (st : Stage) : State :=
  stateOf cfgZ { zoneSession with stage := st, zchg := { activeZones := 0x06 }, zdirty := 0b11001 }
def functionPending (st : Stage) : State := stateOf cfgZ { session160 with stage := st, funcq := [{}, {}] }
def fieldPending (st : Stage) : State :=
  stateOf cfgZ { session160 with stage := st, chg := { maintenance := true }, dirty := 0x801 }
theorem test_witness_ZoneWriteReply :
    ∀ st ∈ [Stage.complete, .findNextControllerTx],
      ownsTurn (zonePending st).cfg tok0 true ∧ ¬requestStage (atReply (zonePending st)).S.stage ∧
        ¬errorReplyDue (zonePending st) ∧ (zonePending st).S.zdirty ≠ 0 := by
  unfold ownsTurn requestStage errorReplyDue; decide
theorem test_witness_FunctionReply :
    ∀ st ∈ [Stage.complete, .findNextControllerTx],
      ownsTurn (functionPending st).cfg tok0 true ∧ ¬requestStage (atReply (functionPending st)).S.stage ∧
        ¬errorReplyDue (functionPending st) ∧ (functionPending st).S.zdirty = 0 ∧
        (functionPending st).S.funcq = {} :: [{}] := by
  unfold ownsTurn requestStage errorReplyDue; decide
theorem test_witness_ConfigReply :
    ∀ st ∈ [Stage.complete, .findNextControllerTx, .detectFeatureSupport],
      (fieldPending st).cfg.wellFormed = true ∧ ownsTurn (fieldPending st).cfg tok0 true ∧
        ¬requestStage (atReply (fieldPending st)).S.stage ∧ ¬errorReplyDue (fieldPending st) ∧
        (fieldPending st).S.zdirty = 0 ∧ (fieldPending st).S.funcq = [] := by
  unfold ownsTurn requestStage errorReplyDue; decide
theorem test_witness_DiscoveryTurn :
    (inStage (cfgRef .zoned 15) .findNextControllerTx).cfg.wellFormed = true ∧
    ownsTurn (inStage (cfgRef .zoned 15) .findNextControllerTx).cfg tok15 true ∧
    (inStage (cfgRef .zoned 15) .findNextControllerTx).S.stage = .findNextControllerTx ∧
    ownsTurn (inStage cfgL .findNextControllerTx).cfg tok0 true := by
  unfold ownsTurn; decide
theorem test_witness_OutputOrder :
    highRow.received ≠ none ∧ ¬ownsTurn st160.cfg (tokenOf (fromC {})) false ∧
    ownsTurn (stateOf cfgZ session160).cfg (tokenOf (fromIU true)) true := by
  unfold ownsTurn; decide
theorem test_witness_IgnoredFrameBits :
    let w : Frame := ⟨0xDF, 0x7E, 0xEF, 0xFF, 0xFF, 0xFE, 0xFF, 0xFF⟩
    let x : Frame := ⟨0xDF, 0xFE, 0xE0, 0x00, 0xFF, 0x00, 0xFF, 0xFF⟩
    w ≠ x ∧ (invertFrame w).and (coveredBits cfgZ (packetKind cfgZ (decodeOf cfgZ w))) =
      (invertFrame x).and (coveredBits cfgZ (packetKind cfgZ (decodeOf cfgZ w))) := by decide

/-- A frame that gives the turn stands on the port; a command does; a reset request does. -/
def polled : State :=
  { st160 with ports := { rx := [⟨Frame.toPort ⟨0xFE, 0x5F, 0xBF, 0xFF, 0xFF, 0xFF, 0xFF, 0xFF⟩, true⟩] } }
def reinitAsked : State := { st160 with ports := { cmd := [0x12000000] } }
def bothAsked : State := { polled with ports := { polled.ports with cmd := [0x12000000] } }
def resetAsked (c : Cfg) : State := { bothAsked with ports := { bothAsked.ports with rst := some c } }
theorem inv_st160 : Inv st160 where
  config := by decide
  transients := by decide
  session := by constructor <;> decide
theorem inv_polled : Inv polled := ⟨inv_st160.config, inv_st160.transients, inv_st160.session⟩
theorem inv_reinitAsked : Inv reinitAsked := ⟨inv_st160.config, inv_st160.transients, inv_st160.session⟩
theorem step_polled : step polled = .next (stepOf polled) := by rfl
theorem step_reinitAsked : step reinitAsked = .next (stepOf reinitAsked) := by rfl
theorem test_witness_OneReplyPerTurn :
    Inv polled ∧ polled.ports.rst = none ∧ step polled = .next (stepOf polled) ∧
    Inv reinitAsked ∧ reinitAsked.ports.rst = none ∧ step reinitAsked = .next (stepOf reinitAsked) :=
  ⟨inv_polled, rfl, step_polled, inv_reinitAsked, rfl, step_reinitAsked⟩
theorem test_witness_StagePath :
    polled.ports.rst = none ∧ step polled = .next (stepOf polled) ∧ reinitAsked.ports.rst = none ∧
    step reinitAsked = .next (stepOf reinitAsked) := ⟨rfl, step_polled, rfl, step_reinitAsked⟩
theorem test_witness_CompleteInTwoFrames :
    cfgZ.wellFormed = true ∧ State.reset.S.stage = .detectFeatureSupport ∧
    ({ unknownFlags := 2 } : IUSub).unknownFlags = 2 ∧
    ownsTurn State.reset.cfg (tokenOf (fromIU true)) (fromIU true).last := by
  unfold ownsTurn; decide
theorem test_witness_CompleteInFiveFrames :
    State.reset.cfg.variant = .zoned ∧ State.reset.S.stage = .detectFeatureSupport ∧
    ({ unknownFlags := 3 } : IUSub).unknownFlags ≠ 2 ∧ featuresZ.zones = true ∧
    ownsTurn State.reset.cfg (tokenOf (fromIU true)) (fromIU true).last := by
  unfold ownsTurn; decide
theorem test_witness_RequestsWait :
    (Instr.statusIU (fromIU true)).received = some (fromIU true, (fromIU true).packet .indoorUnit 4 .status) ∧
    requestStage (inStage cfgZ .featureRequest).S.stage ∧ requestStage (inStage cfgZ .zoneRequestEnabled).S.stage ∧
    requestStage (inStage cfgZ .zoneRequestActive).S.stage ∧
    (∀ h f, Instr.statusIU (fromIU true) ≠ .featuresIU h f) ∧
    (∀ h b, Instr.statusIU (fromIU true) ≠ .zoneFunctionIU h b) ∧
    ∀ h z, Instr.statusIU (fromIU true) ≠ .zoneConfigIU h z := by
  refine ⟨rfl, .inl rfl, .inr (.inl rfl), .inr (.inr rfl), ?_, ?_, ?_⟩ <;> intro _ _ h <;> cases h

/-- The state of 42_fsm_rx.md R191's example. -/
def st191 : State := stateOf cfgZ { session160 with features := featuresZ }
theorem not_lockedOut_of {s : State} {cmd : LockCmd} {o : Bool} (h : locked s cmd o = false) :
    ¬lockedOut s cmd o := fun hl => by rw [(locked_iff s cmd o).2 hl] at h; cases h
theorem lockedOut_of {s : State} {cmd : LockCmd} {o : Bool} (h : locked s cmd o = true) :
    lockedOut s cmd o := (locked_iff s cmd o).1 h
theorem test_witness_TwoWritesThenPoll :
    st191.cfg.wellFormed = true ∧ st191.cfg.selfClearing = [.resetFilterTimer, .maintenance] ∧
    st191.S.stage = .complete ∧ st191.S.zdirty = 0 ∧ st191.S.funcq = [] ∧ st191.S.dirty = 0 ∧
    st191.S.features.filterTimer = true ∧ ¬lockedOut st191 .resetFilter false ∧
    ownsTurn st191.cfg (tokenOf (fromIU true)) (fromIU true).last :=
  ⟨by decide, rfl, rfl, rfl, rfl, rfl, rfl, not_lockedOut_of (by decide), by unfold ownsTurn; decide⟩

/-- Everything unlocked, all features; every lock flag set; and the features all 0. -/
def stFull : State := stateOf cfgZ fullSession
def stLocked : State := stateOf cfgZ (lockedSession { lockAll := true })
def stBare : State := stateOf cfgZ { session160 with features := {} }
/-- The lock check passes and refuses, with the default map, for every command. -/
theorem test_witness_lockedByDefault :
    stFull.cfg.lockMap = lockMapRef ∧
    ∀ k ∈ [LockCmd.setEnabled, .setEconomy, .setTestRun, .setSetpoint, .setMode, .setFanSpeed, .setVerticalSwing,
      .setHorizontalSwing, .advanceVerticalLouver, .advanceHorizontalLouver, .useSensor, .resetFilter,
      .maintenance, .setZone, .setZoneGroupDay, .setZoneGroupNight],
      locked stFull k false = false ∧ locked stLocked k false = true ∧ locked stLocked k true = false := by
  decide
theorem test_witness_SetEnabledAndTestRun :
    ¬lockedOut stFull .setEnabled false ∧ lockedOut stLocked .setEnabled false ∧
    ¬lockedOut stLocked .setEnabled true ∧ ¬lockedOut stFull .setTestRun false ∧
    lockedOut stLocked .setTestRun false ∧ stFull.cfg.lockMap = lockMapRef :=
  ⟨not_lockedOut_of (by decide), lockedOut_of (by decide), not_lockedOut_of (by decide),
    not_lockedOut_of (by decide), lockedOut_of (by decide), rfl⟩
theorem test_witness_words :
    (0x80FFFFFF : BitVec 32).extractLsb' 24 5 = 0 ∧ (0x01000000 : BitVec 32).extractLsb' 24 5 = 1 ∧
    (0xE2000001 : BitVec 32).extractLsb' 24 5 = 2 ∧ (0x030000FF : BitVec 32).extractLsb' 24 5 = 3 ∧
    (0x04000007 : BitVec 32).extractLsb' 24 5 = 4 ∧ (0x05000007 : BitVec 32).extractLsb' 24 5 = 5 ∧
    (0x06000001 : BitVec 32).extractLsb' 24 5 = 6 ∧ (0x07000000 : BitVec 32).extractLsb' 24 5 = 7 ∧
    (0x08FFFFFF : BitVec 32).extractLsb' 24 5 = 8 ∧ (0x89000000 : BitVec 32).extractLsb' 24 5 = 9 ∧
    (0x0A000001 : BitVec 32).extractLsb' 24 5 = 10 ∧ (0x0BFFFFFF : BitVec 32).extractLsb' 24 5 = 11 ∧
    (0xEC000000 : BitVec 32).extractLsb' 24 5 = 12 ∧ (0x1000FFFF : BitVec 32).extractLsb' 24 5 = 16 ∧
    (0x110FFFFF : BitVec 32).extractLsb' 24 5 = 17 ∧ (0x92000000 : BitVec 32).extractLsb' 24 5 = 18 ∧
    (0x0D00010F : BitVec 32).extractLsb' 24 5 = 13 ∧ (0x0E000100 : BitVec 32).extractLsb' 24 5 = 14 ∧
    (0x0F000008 : BitVec 32).extractLsb' 24 5 = 15 := by decide
theorem test_witness_SetEconomyAndSwing :
    (¬lockedOut stFull .setEconomy false ∧ stFull.S.features.economyMode = true) ∧
    (¬lockedOut stFull .setVerticalSwing false ∧ stFull.S.features.verticalLouvers = true) ∧
    (¬lockedOut stFull .setHorizontalSwing false ∧ stFull.S.features.horizontalLouvers = true) ∧
    lockedOut stLocked .setEconomy false ∧ lockedOut stLocked .setVerticalSwing false ∧
    lockedOut stLocked .setHorizontalSwing false ∧ stBare.S.features.economyMode = false ∧
    stBare.S.features.verticalLouvers = false ∧ stBare.S.features.horizontalLouvers = false ∧
    stFull.cfg.lockMap = lockMapRef :=
  ⟨⟨not_lockedOut_of (by decide), rfl⟩, ⟨not_lockedOut_of (by decide), rfl⟩,
    ⟨not_lockedOut_of (by decide), rfl⟩, lockedOut_of (by decide), lockedOut_of (by decide),
    lockedOut_of (by decide), rfl, rfl, rfl, rfl⟩
theorem test_witness_SetSetpoint :
    (¬lockedOut stFull .setSetpoint false ∧ 16 ≤ (16 : BitVec 8).toNat ∧ (30 : BitVec 8).toNat ≤ 30) ∧
    lockedOut stLocked .setSetpoint false ∧ ¬16 ≤ (15 : BitVec 8).toNat ∧ ¬(31 : BitVec 8).toNat ≤ 30 ∧
    ¬(144 : BitVec 8).toNat ≤ 30 ∧ stFull.cfg.lockMap = lockMapRef :=
  ⟨⟨not_lockedOut_of (by decide), by decide, by decide⟩, lockedOut_of (by decide), by decide, by decide,
    by decide, rfl⟩
theorem test_witness_SetModeAndFanSpeed :
    ¬lockedOut stFull .setMode false ∧ ¬lockedOut stFull .setFanSpeed false ∧
    lockedOut stLocked .setMode false ∧ lockedOut stLocked .setFanSpeed false ∧
    stFull.S.features.modeFan = true ∧ stFull.S.features.modeAuto = true ∧
    stFull.S.features.fanAuto = true ∧ stFull.S.features.fanHigh = true ∧
    stBare.S.features.modeFan = false ∧ stBare.S.features.fanAuto = false ∧ stFull.cfg.lockMap = lockMapRef :=
  ⟨not_lockedOut_of (by decide), not_lockedOut_of (by decide), lockedOut_of (by decide),
    lockedOut_of (by decide), rfl, rfl, rfl, rfl, rfl, rfl, rfl⟩
theorem test_witness_MomentaryCommands :
    (¬lockedOut stFull .advanceVerticalLouver false ∧ stFull.S.features.verticalLouvers = true) ∧
    (¬lockedOut stFull .advanceHorizontalLouver false ∧ stFull.S.features.horizontalLouvers = true) ∧
    (¬lockedOut stFull .resetFilter false ∧ stFull.S.features.filterTimer = true) ∧
    (¬lockedOut stFull .maintenance false ∧ stFull.S.features.maintenance = true) ∧
    lockedOut stLocked .advanceVerticalLouver false ∧ lockedOut stLocked .advanceHorizontalLouver false ∧
    lockedOut stLocked .resetFilter false ∧ lockedOut stLocked .maintenance false :=
  ⟨⟨not_lockedOut_of (by decide), rfl⟩, ⟨not_lockedOut_of (by decide), rfl⟩,
    ⟨not_lockedOut_of (by decide), rfl⟩, ⟨not_lockedOut_of (by decide), rfl⟩, lockedOut_of (by decide),
    lockedOut_of (by decide), lockedOut_of (by decide), lockedOut_of (by decide)⟩
theorem test_witness_UseSensor :
    (¬lockedOut stFull .useSensor false ∧ stFull.S.features.sensorSwitching = true) ∧
    lockedOut stLocked .useSensor false ∧ stBare.S.features.sensorSwitching = false :=
  ⟨⟨not_lockedOut_of (by decide), rfl⟩, lockedOut_of (by decide), rfl⟩

/-- All eight zones enabled, zone 1 the only active one; without and with the common outlet. -/
def stZones (common : Bool) : State :=
  stateOf cfgZ { fullSession with zoneEnabled := 0xFF, zoneCommon := common, zcur := { activeZones := 0x01 } }
theorem zoneAllowed_of {s : State} {cmd : LockCmd} {o : Bool} {z : BitVec 4}
    (h : ((zoneChecks s cmd o z).all fun e => !e.1) = true) : zoneAllowed s cmd o z :=
  (zoneChecks_iff s cmd o z).1 (by simpa using h)
theorem test_witness_SetZone :
    zoneAllowed (stZones false) .setZone false 1 ∧ zoneAllowed (stZones true) .setZone false 8 ∧
    (zonePut (stZones false).S.zcur.activeZones 1 false = 0 ∧ (stZones false).S.zoneCommon = false) ∧
    (stZones true).S.zoneCommon = true ∧ zonePut (stZones false).S.zcur.activeZones 8 true ≠ 0 ∧
    ¬zoneAllowed (stZones false) .setZone false 0 ∧ ¬zoneAllowed (stZones false) .setZone false 9 ∧
    ¬zoneAllowed (stateOf cfgL fullSession) .setZone false 1 ∧ (stZones false).cfg.lockMap = lockMapRef := by
  refine ⟨zoneAllowed_of (by decide), zoneAllowed_of (by decide), by decide, by decide, by decide, ?_, ?_, ?_, rfl⟩
    <;> simp [zoneAllowed, stateOf, State.resetWith, cfgL, cfgRef]
theorem test_witness_SetZoneGroups :
    zoneAllowed (stZones false) .setZoneGroupDay false 1 ∧ zoneAllowed (stZones false) .setZoneGroupDay false 8 ∧
    zoneAllowed (stZones false) .setZoneGroupNight false 1 ∧
    zoneAllowed (stZones false) .setZoneGroupNight false 8 ∧
    ¬zoneAllowed (stZones false) .setZoneGroupDay false 0 ∧
    ¬zoneAllowed (stZones false) .setZoneGroupNight false 9 ∧ (stZones false).cfg.lockMap = lockMapRef := by
  refine ⟨zoneAllowed_of (by decide), zoneAllowed_of (by decide), zoneAllowed_of (by decide),
    zoneAllowed_of (by decide), ?_, ?_, rfl⟩ <;> simp [zoneAllowed]
theorem test_witness_QueueFunction :
    (stateOf cfgZ { session160 with funcq := List.replicate 3 {} }).S.funcq.length ≠ cfgZ.funcQueueDepth ∧
    (stateOf cfgZ { session160 with funcq := List.replicate 4 {} }).S.funcq.length = cfgZ.funcQueueDepth := by
  decide
theorem test_witness_UndefinedOps :
    19 ≤ ((0x13000000 : BitVec 32).extractLsb' 24 5).toNat ∧
    19 ≤ ((0xFFFFFFFF : BitVec 32).extractLsb' 24 5).toNat ∧
    Instr.undefinedOp31 ∈ [Instr.undefinedOp19, .undefinedOp20, .undefinedOp21, .undefinedOp22, .undefinedOp23,
      .undefinedOp24, .undefinedOp25, .undefinedOp26, .undefinedOp27, .undefinedOp28, .undefinedOp29,
      .undefinedOp30, .undefinedOp31] := by decide
theorem test_witness_CommandOutcome : decodeCmd 0x12000000 = .reinit false := by decide
theorem test_witness_DefaultLocks :
    stLocked.cfg.lockMap = lockMapRef ∧ stLocked.S.cur.iu.lockAll = true ∧
    LockCmd.setZone ∈ [LockCmd.setEconomy, .setTestRun, .setFanSpeed, .setVerticalSwing, .setHorizontalSwing,
      .advanceVerticalLouver, .advanceHorizontalLouver, .useSensor, .maintenance, .setZone, .setZoneGroupDay,
      .setZoneGroupNight] := by decide
theorem test_witness_BeforeNegotiation :
    stBare.S.features = {} ∧ State.reset.S.features = {} ∧
    Instr.setZone true 8 true ∈ [Instr.setEconomy true true, .setMode true 7, .setFanSpeed true 7,
      .setVerticalSwing true true, .setHorizontalSwing true true, .advanceVerticalLouver true,
      .advanceHorizontalLouver true, .useSensor true true, .resetFilter true, .maintenance true,
      .setZone true 8 true, .setZoneGroupDay true 8 true, .setZoneGroupNight true 8 true] := by decide
theorem test_witness_StepRunsDecoded :
    (bothAsked.ports.rst = none ∧ bothAsked.ports.rx =
      [⟨Frame.toPort ⟨0xFE, 0x5F, 0xBF, 0xFF, 0xFF, 0xFF, 0xFF, 0xFF⟩, true⟩]) ∧
    (reinitAsked.ports.rst = none ∧ reinitAsked.ports.rx = [] ∧ reinitAsked.ports.cmd = [0x12000000]) ∧
    (st160.ports.rst = none ∧ st160.ports.rx = [] ∧ st160.ports.cmd = []) := by decide
theorem test_witness_StepResets :
    (resetAsked cfgL).ports.rst = some cfgL ∧ cfgL.wellFormed = true ∧
    (resetAsked { cfgZ with funcQueueDepth := 0 }).ports.rst = some { cfgZ with funcQueueDepth := 0 } ∧
    Cfg.wellFormed { cfgZ with funcQueueDepth := 0 } = false := by decide
theorem test_witness_InvKept :
    Inv polled ∧ step polled = .next (stepOf polled) ∧ Inv reinitAsked ∧
    step reinitAsked = .next (stepOf reinitAsked) :=
  ⟨inv_polled, step_polled, inv_reinitAsked, step_reinitAsked⟩
theorem test_witness_EventCodes :
    (Instr.statusIU (fromIU true)).received ≠ none ∧ ownsTurn stZone.cfg (tokenOf (fromIU true)) true ∧
    highRow.received ≠ none ∧ ¬ownsTurn st160.cfg (tokenOf (fromC {})) false := by
  unfold ownsTurn; decide

end Sys2Proof.Tests
end

section
/-! One step by what is presented (20_memory.md section 7): what `fetch` takes off which port, and how a
step answers what was fetched. -/

namespace Sys2Proof.Machine

/-- 20_memory.md R60 and R61: the frame at the head goes first, whatever stands on the `CMD` port. -/
theorem fetch_of_rx_cons {s : State} {item : RxItem} {rest : List RxItem}
    (hrx : s.ports.rx = item :: rest) :
    fetch s = some (decodeFrame s.cfg (Frame.ofPort item.data) item.last,
      { s with ports := { s.ports with rx := rest } }) := by
  simp only [fetch, hrx]

theorem fetch_of_rx_nil_of_cmd_cons {s : State} {w : BitVec 32} {rest : List (BitVec 32)}
    (hrx : s.ports.rx = []) (hcmd : s.ports.cmd = w :: rest) :
    fetch s = some (decodeCmd w, { s with ports := { s.ports with cmd := rest } }) := by
  simp only [fetch, hrx, hcmd]

theorem fetch_of_rx_nil_of_cmd_nil {s : State} (hrx : s.ports.rx = []) (hcmd : s.ports.cmd = []) :
    fetch s = none := by
  simp only [fetch, hrx, hcmd]

theorem step_of_fetch_some {s s' : State} {i : Instr} (hrst : s.ports.rst = none)
    (hfetch : fetch s = some (i, s')) : step s = exec i s' := by
  simp only [step, hrst, hfetch]

/-- 60_exceptions.md R286: the block holds its state. -/
theorem step_of_fetch_none {s : State} (hrst : s.ports.rst = none) (hfetch : fetch s = none) :
    step s = .next s := by
  simp only [step, hrst, hfetch]

/-- Settles O56: each clause is the fetch from the ports that it describes, run by the step. -/
theorem stepRunsDecoded : Obligations.StepRunsDecoded := by
  unfold Obligations.StepRunsDecoded
  refine ⟨?frame, ?command, ?nothing⟩
  case frame =>
    intro s item rest hrst hrx
    exact step_of_fetch_some hrst (fetch_of_rx_cons hrx)
  case command =>
    intro s w rest hrst hrx hcmd
    exact step_of_fetch_some hrst (fetch_of_rx_nil_of_cmd_cons hrx hcmd)
  case nothing =>
    intro s hrst hrx hcmd
    exact step_of_fetch_none hrst (fetch_of_rx_nil_of_cmd_nil hrx hcmd)

end Sys2Proof.Machine
end

section
/-! What `DECODE` reads of any wire frame: the header by its bits (30_encoding.md R71), a body of the shape
of its kind, and each field by its own descriptor (41_codec_frames.md R130 to R143). -/

namespace Sys2Proof

/-! The header descriptors, bit by bit. -/

/-- The role bit of a header byte. -/
theorem getFieldOf_roleBit {d : Descriptor} (hmask : d.mask = 0x20) (hshift : d.shift = 5)
    (f : Frame) : (getFieldOf d f).getLsbD 0 = (f.lane d.byte).getLsbD 5 := by
  simp [getFieldOf, hmask, hshift]

/-- The address number of a header byte. -/
theorem getFieldOf_addrBits {d : Descriptor} (hmask : d.mask = 0x0F) (hshift : d.shift = 0)
    (f : Frame) : getFieldOf d f = ((f.lane d.byte).extractLsb' 0 4).setWidth 8 := by
  rw [getFieldOf, hmask, hshift]
  generalize f.lane d.byte = x
  revert x
  decide

/-- The type code of byte 2. -/
theorem decodeType_eq (f : Frame) : decodeType f = f.b2.extractLsb' 4 3 := by
  obtain ⟨_, _, b2, _⟩ := f
  show ((b2 &&& 0x70) >>> 4).setWidth 3 = b2.extractLsb' 4 3
  revert b2
  decide

theorem Role.ofBit_eq_controller_iff (b : Bool) : Role.ofBit b = .controller ↔ b = true := by
  cases b <;> decide

/-- An address read from a header byte is at most 15. -/
theorem decodeAddress_addr_lt (typ : Descriptor) {d : Descriptor} (hmask : d.mask = 0x0F)
    (hshift : d.shift = 0) (f : Frame) : (decodeAddress typ d f).addr.toNat < 16 := by
  show (getFieldOf d f).toNat < 16
  rw [getFieldOf_addrBits hmask hshift, BitVec.toNat_setWidth]
  have := ((f.lane d.byte).extractLsb' 0 4).isLt
  omega

/-! The decoded body. -/

/-- A decoded packet has the shape of its kind. -/
theorem shaped_decodeLogicalOf (c : Cfg) (f : Frame) : (decodeLogicalOf c f).shaped c = true := by
  have hbody : (decodeLogicalOf c f).body =
      decodeBody c (packetKind c (decodeLogicalOf c f)) f := rfl
  rw [Packet.shaped, hbody]
  cases packetKind c (decodeLogicalOf c f) <;> rfl

/-- A decoded temperature is one that survives encode and decode (41_codec_frames.md R145). -/
theorem tempCanonical_tempUnpack (v : Variant) (w : Byte) :
    tempCanonical v (tempUnpack v w) = true := by
  cases v with
  | legacy =>
    have := (w.setWidth 6).isLt
    simp only [tempCanonical, tempUnpack, tempUnpackLegacy_toNat, Bool.and_eq_true, beq_iff_eq,
      decide_eq_true_eq]
    omega
  | zoned =>
    have := (w.setWidth 7).isLt
    simp only [tempCanonical, tempUnpack, tempUnpackZoned_toNat, Bool.and_eq_true, beq_iff_eq,
      decide_eq_true_eq]
    omega

/-- What a kind has no field for decodes as 0. -/
theorem bodyCanonical_decodeLogicalOf (c : Cfg) (f : Frame) :
    (decodeLogicalOf c f).bodyCanonical c = true := by
  have hbody : (decodeLogicalOf c f).body =
      decodeBody c (packetKind c (decodeLogicalOf c f)) f := rfl
  rw [Packet.bodyCanonical, hbody]
  cases packetKind c (decodeLogicalOf c f)
  case configC =>
    show (({} : IUSub) == {} && tempCanonical c.variant (tempUnpack c.variant _)) = true
    rw [tempCanonical_tempUnpack]
    rfl
  case features =>
    show (!(c.variant == .legacy && (decodeFeatures c f).zones)) = true
    cases hv : c.variant <;> simp [decodeFeatures, hv]
  all_goals rfl

/-- DECODE makes canonical packets only. -/
theorem canonical_decodeLogicalOf (c : Cfg) (f : Frame) :
    (decodeLogicalOf c f).canonical c = true := by
  have hsrc : (decodeLogicalOf c f).src.addr.toNat < 16 := decodeAddress_addr_lt _ rfl rfl f
  have htok : (decodeLogicalOf c f).tok.addr.toNat < 16 := decodeAddress_addr_lt _ rfl rfl f
  simp only [Packet.canonical, shaped_decodeLogicalOf, bodyCanonical_decodeLogicalOf, Bool.and_true,
    Bool.true_and, Bool.and_eq_true, decide_eq_true_eq]
  omega

end Sys2Proof
end

section
/-! The row of a decoded frame: it stands for the decoded packet, is well formed, and holds every bit of
the frame (30_encoding.md R98). -/

namespace Sys2Proof

/-- The kind that the row decoder selects is that of the decoded packet. -/
theorem packetKind_decodeLogicalOf (c : Cfg) (f : Frame) :
    packetKind c (decodeLogicalOf c f) = kindOf c.variant (decodeType f) (decodeRole f) := rfl

/-- A header address survives the 4 bits of a row's operand. -/
theorem decodeAddress_addr_setWidth (typ : Descriptor) {d : Descriptor} (hmask : d.mask = 0x0F)
    (hshift : d.shift = 0) (f : Frame) :
    ((getFieldOf d f).setWidth 4).setWidth 8 = (decodeAddress typ d f).addr := by
  have hlt := decodeAddress_addr_lt typ hmask hshift f
  apply BitVec.eq_of_toNat_eq
  change (getFieldOf d f).toNat < 16 at hlt
  show _ = (getFieldOf d f).toNat
  simp only [BitVec.toNat_setWidth]
  omega

/-- The row's operands put the decoded packet together again. -/
theorem decodeHead_packet (c : Cfg) (k : Kind) (f : Frame) (last : Bool) :
    (decodeHead c k f last).packet (decodeRole f) (decodeType f)
        (decodeBody c (kindOf c.variant (decodeType f) (decodeRole f)) f) =
      decodeLogicalOf c f := by
  have hsrc := decodeAddress_addr_setWidth hdrSourceType (d := hdrSourceAddress) rfl rfl f
  have htok := decodeAddress_addr_setWidth hdrTokenType (d := hdrTokenAddress) rfl rfl f
  simp only [RxHead.packet, decodeHead, hsrc, htok]
  rfl

/-- The row of a frame stands for the packet that DECODE reads from it. -/
theorem received_decodeLogicalFrame (c : Cfg) (f : Frame) (last : Bool) :
    (decodeLogicalFrame c f last).received =
      some (decodeHead c (packetKind c (decodeLogicalOf c f)) f last, decodeLogicalOf c f) := by
  rw [packetKind_decodeLogicalOf,
    ← decodeHead_packet c (kindOf c.variant (decodeType f) (decodeRole f)) f last]
  obtain ⟨k, hk⟩ := Machine.exists_isKind c.variant (decodeType f) (decodeRole f)
  have hkind := (Machine.isKind_iff _ _ _ _).1 hk
  unfold decodeLogicalFrame
  rw [hkind]
  cases k
  case configIU | configC =>
    obtain ⟨hcode, hrole⟩ := hk
    rw [hcode, hrole]; rfl
  case zoneConfigIU | zoneConfigC | zoneFunctionIU | zoneFunctionC =>
    obtain ⟨hcode, _, hrole⟩ := hk
    rw [hcode, hrole]; rfl
  case error | features | function | status =>
    have hcode : decodeType f = _ := hk
    rw [hcode]
    cases decodeRole f <;> rfl
  case unknown =>
    obtain hcode | ⟨_, hcode | hcode⟩ := hk <;> rw [hcode] <;> rfl

/-- The bits a row carries beside its fields are bits no field covers. -/
theorem ignoredOk_ignoredBits (c : Cfg) (k : Kind) (f : Frame) :
    ignoredOk c k (ignoredBits c k f) = true := by
  rw [ignoredOk, beq_iff_eq]
  apply Frame.ext_lane
  intro i hi
  rw [ignoredBits, Frame.lane_and, Frame.lane_and, Frame.lane_invert _ hi, Frame.lane_zero,
    BitVec.and_assoc]
  simp

/-- A received-frame row is well formed where its packet is canonical and its ignored bits are. -/
theorem wellFormed_of_received {c : Cfg} {i : Instr} {h : RxHead} {p : Packet}
    (hi : i.received = some (h, p)) :
    i.wellFormed c = (p.canonical c && ignoredOk c (packetKind c p) h.ignored) := by
  simp only [Instr.wellFormed, hi]

/-- A received-frame row is presented as the complement of its logical frame. -/
theorem encode_of_received {c : Cfg} {i : Instr} {h : RxHead} {p : Packet}
    (hi : i.received = some (h, p)) :
    encode c i = some (.rx (invertFrame (rawOf c p h.ignored)) h.last) := by
  unfold encode
  rw [hi]

theorem wellFormed_decodeLogicalFrame (c : Cfg) (f : Frame) (last : Bool) :
    (decodeLogicalFrame c f last).wellFormed c = true := by
  rw [wellFormed_of_received (received_decodeLogicalFrame c f last), canonical_decodeLogicalOf,
    Bool.true_and]
  exact ignoredOk_ignoredBits _ _ _

theorem encode_decodeLogicalFrame {c : Cfg} (hc : c.wellFormed = true) (f : Frame) (last : Bool) :
    encode c (decodeLogicalFrame c f last) = some (.rx (invertFrame f) last) := by
  have hraw : rawOf c (decodeLogicalOf c f)
      (decodeHead c (packetKind c (decodeLogicalOf c f)) f last).ignored = f := rawOf_decode hc f
  rw [encode_of_received (received_decodeLogicalFrame c f last), hraw]
  rfl

/-- Settles O4: the row's packet and its ignored bits are the two parts of the frame. -/
theorem everyFrameDecodes : Obligations.EveryFrameDecodes := by
  unfold Obligations.EveryFrameDecodes
  intro c w last hc
  refine ⟨wellFormed_decodeLogicalFrame c (invertFrame w) last, ?_⟩
  rw [decodeFrame, encode_decodeLogicalFrame hc, invertFrame_invertFrame]

end Sys2Proof
end

section
/-! The body of a decoded frame, field by field (41_codec_frames.md R132 to R143), and DECODE as an
instruction. -/

namespace Sys2Proof.Machine

/-- A decoded temperature, as a number (41_codec_frames.md R133). -/
theorem tempUnpack_toNat (v : Variant) (w : Byte) :
    (tempUnpack v w).toNat = match v with
      | .zoned => w.toNat % 128 * 128
      | .legacy => w.toNat % 64 * 256 := by
  cases v
  · simp only [tempUnpack, tempUnpackLegacy_toNat, BitVec.toNat_setWidth]
  · simp only [tempUnpack, tempUnpackZoned_toNat, BitVec.toNat_setWidth]

theorem groupMask_even_getLsbD (lo hi : Byte) {i : Nat} (h : i < 4) :
    (groupMask lo hi .even).getLsbD i = lo.getLsbD (2 * i) ∧
      (groupMask lo hi .even).getLsbD (i + 4) = hi.getLsbD (2 * i) := by
  rw [groupMask_getLsbD _ _ _ (by omega), groupMask_getLsbD _ _ _ (by omega), if_pos h,
    if_neg (by omega), Nat.add_sub_cancel, extractBits_even _ h, extractBits_even _ h]
  exact ⟨rfl, rfl⟩

theorem groupMask_odd_getLsbD (lo hi : Byte) {i : Nat} (h : i < 4) :
    (groupMask lo hi .odd).getLsbD i = lo.getLsbD (2 * i + 1) ∧
      (groupMask lo hi .odd).getLsbD (i + 4) = hi.getLsbD (2 * i + 1) := by
  rw [groupMask_getLsbD _ _ _ (by omega), groupMask_getLsbD _ _ _ (by omega), if_pos h,
    if_neg (by omega), Nat.add_sub_cancel, extractBits_odd _ h, extractBits_odd _ h]
  exact ⟨rfl, rfl⟩

theorem holdsCommon_decodeCommon (c : Cfg) (k : Kind) (f : Frame) :
    holdsCommon (fieldAt c k f) (decodeCommon c k f) :=
  ⟨rfl, rfl, rfl, rfl, rfl, rfl, rfl, rfl⟩

theorem holdsIU_decodeIU (c : Cfg) (f : Frame) : holdsIU (fieldAt c .configIU f) (decodeIU c f) :=
  ⟨rfl, rfl, rfl, rfl, rfl, rfl, rfl, rfl, rfl, rfl, rfl⟩

theorem holdsCtl_decodeCtl (c : Cfg) (f : Frame) :
    holdsCtl (fieldAt c .configC f) (decodeCtl c f) :=
  ⟨rfl, rfl, rfl, rfl, rfl, rfl⟩

theorem holdsFeatures_decodeFeatures (c : Cfg) (f : Frame) :
    holdsFeatures (fieldAt c .features f) (decodeFeatures c f) :=
  ⟨rfl, rfl, rfl, rfl, rfl, rfl, rfl, rfl, rfl, rfl, rfl, rfl, rfl, rfl, rfl, rfl⟩

theorem holdsFunction_decodeFunction (c : Cfg) (f : Frame) :
    holdsFunction (fieldAt c .function f) (decodeFunction c f) :=
  ⟨rfl, rfl, rfl⟩

theorem holdsZones_decodeZones (c : Cfg) (k : Kind) (f : Frame) :
    holdsZones (fieldAt c k f) (decodeZones c k f) := by
  refine ⟨rfl, ?_, rfl, rfl⟩
  intro i hi
  obtain ⟨hdayLo, hdayHi⟩ :=
    groupMask_even_getLsbD (fieldAt c k f .groupMapLo) (fieldAt c k f .groupMapHi) hi
  obtain ⟨hnightLo, hnightHi⟩ :=
    groupMask_odd_getLsbD (fieldAt c k f .groupMapLo) (fieldAt c k f .groupMapHi) hi
  exact ⟨hdayLo.symm, hnightLo.symm, hdayHi.symm, hnightHi.symm⟩

/-- The decoded body of a kind is what the kind's fields give. -/
theorem readsAs_decodeBody (c : Cfg) (k : Kind) (f : Frame) :
    readsAs c.variant (fieldAt c k f) (decodeBody c k f) k := by
  cases k
  case configIU => exact ⟨_, _, rfl, holdsCommon_decodeCommon c _ f, holdsIU_decodeIU c f⟩
  case configC =>
    exact ⟨_, _, rfl, holdsCommon_decodeCommon c _ f, holdsCtl_decodeCtl c f, tempUnpack_toNat _ _⟩
  case features =>
    refine ⟨_, rfl, holdsFeatures_decodeFeatures c f, ?_⟩
    cases hv : c.variant with
    | legacy => simp only [decodeFeatures, hv]
    | zoned => simp only [decodeFeatures, hv]; rfl
  case function => exact ⟨_, rfl, holdsFunction_decodeFunction c f⟩
  case zoneConfigIU => exact ⟨_, rfl, holdsZones_decodeZones c _ f⟩
  case zoneConfigC => exact ⟨_, _, rfl, holdsZones_decodeZones c _ f, rfl⟩
  case zoneFunctionIU => exact ⟨_, rfl, rfl⟩
  case error | status | zoneFunctionC | unknown => rfl

/-- A header address is a controller's where its role bit is set. -/
theorem decodeAddress_role_iff {typ : Descriptor} (addr : Descriptor) (hmask : typ.mask = 0x20)
    (hshift : typ.shift = 5) (f : Frame) :
    (decodeAddress typ addr f).role = .controller ↔ (f.lane typ.byte).getLsbD 5 = true := by
  rw [← getFieldOf_roleBit hmask hshift]
  exact Role.ofBit_eq_controller_iff _

/-- Settles O15: the header by the bits of its descriptors, the body by the kind table. -/
theorem decodeHeader : Obligations.DecodeHeader := by
  unfold Obligations.DecodeHeader
  intro s w
  refine ⟨decodeOf s.cfg w, rfl, decodeAddress_role_iff hdrSourceAddress rfl rfl _,
    getFieldOf_addrBits rfl rfl _, decodeAddress_role_iff hdrTokenAddress rfl rfl _,
    getFieldOf_addrBits rfl rfl _, decodeType_eq _, shaped_decodeLogicalOf s.cfg _, rfl,
    exists_isKind _ _ _, ?_⟩
  intro k hk
  have hkind := (isKind_iff _ _ _ _).1 hk
  refine ⟨hkind, ?_⟩
  rw [← hkind]
  exact readsAs_decodeBody s.cfg _ (invertFrame w)

end Sys2Proof.Machine
end

section
/-! The frame of an encoded packet (41_codec_frames.md R131): the header, the universal bit, the fixups,
each field in its own descriptor, and no other bit. -/

namespace Sys2Proof

/-! The header. -/

/-- No field of a packet touches a header bit, so a header byte holds the header (30_encoding.md R71,
R77 item 4). -/
theorem frameFields_and_headerBits {c : Cfg} (hc : c.wellFormed = true) (p : Packet) (k : Nat) :
    (frameFields c p).lane k &&& headerBits.lane k = (headerFrame p).lane k := by
  rw [← headerFrame_and]
  apply BitVec.eq_of_getLsbD_eq
  intro b _
  rw [BitVec.getLsbD_and, BitVec.getLsbD_and, frameFields_getLsbD, Bool.and_or_distrib_right,
    Bool.or_eq_left_iff_imp]
  intro hx
  simp only [Bool.and_eq_true, List.any_eq_true, decide_eq_true_eq] at hx
  obtain ⟨⟨n, hn, ⟨hbyte, _⟩, hstored⟩, hhdr⟩ := hx
  obtain ⟨_, _, _, hfree⟩ := Cfg.wellFormed_field hc hn
  have hdisj := Descriptor.headerFree_bit hfree b
  rw [storedBits_getLsbD, Bool.and_eq_true] at hstored
  rw [← hbyte, hhdr, hstored.2] at hdisj
  exact absurd hdisj (by decide)

/-- The header bits are covered bits. -/
theorem coveredBits_and_headerBits (c : Cfg) (kind : Kind) (k : Nat) :
    (coveredBits c kind).lane k &&& headerBits.lane k = headerBits.lane k := by
  apply BitVec.eq_of_getLsbD_eq
  intro b _
  rw [BitVec.getLsbD_and, coveredBits_getLsbD]
  show (((headerBits.lane k).getLsbD b || _) && (headerBits.lane k).getLsbD b) = _
  rw [Bool.and_comm]
  exact inf_sup_self

/-- The header bytes of an encoded packet hold its header. -/
theorem encodeLogicalOf_and_headerBits {c : Cfg} (hc : c.wellFormed = true) (p : Packet) (k : Nat) :
    (encodeLogicalOf c p).lane k &&& headerBits.lane k = (headerFrame p).lane k := by
  rw [← frameFields_and_headerBits hc, ← encodeLogical_covered hc, Frame.lane_and, BitVec.and_assoc,
    coveredBits_and_headerBits]

/-- The header bits of a source or token byte (30_encoding.md R71, R73). -/
def addressByte (a : Address) : Byte :=
  storedBits hdrSourceType (a.role.bit.setWidth 16) |||
    storedBits hdrSourceAddress (a.addr.setWidth 16)

theorem headerFrame_lane_source (p : Packet) : (headerFrame p).lane 0 = addressByte p.src :=
  headerFrame_lane p 0

theorem headerFrame_lane_token (p : Packet) : (headerFrame p).lane 1 = addressByte p.tok :=
  headerFrame_lane p 1

/-- A byte with the header bits of an address has its role in bit 5 and its low 4 bits in bits 3:0. -/
theorem address_of_byte {x : Byte} {a : Address} (h : x &&& 0x2F = addressByte a) :
    (x.getLsbD 5 = true ↔ a.role = .controller) ∧ x.extractLsb' 0 4 = a.addr.setWidth 4 := by
  have hbit : ∀ b, (x.getLsbD b && (0x2F : Byte).getLsbD b) = (addressByte a).getLsbD b := by
    intro b
    rw [← h, BitVec.getLsbD_and]
  simp only [addressByte, BitVec.getLsbD_or, storedBits_getLsbD] at hbit
  constructor
  · have h5 := hbit 5
    cases hrole : a.role <;> simp_all [hdrSourceType, hdrSourceAddress, Role.bit]
  · apply BitVec.eq_of_getLsbD_eq
    intro i hi
    have hi' := hbit i
    interval_cases i <;> simp_all [hdrSourceType, hdrSourceAddress]

/-- A byte with the header bits of a type code has it in bits 6:4. -/
theorem typeCode_of_byte {x : Byte} {code : BitVec 3}
    (h : x &&& 0x70 = storedBits hdrType (code.setWidth 16)) : x.extractLsb' 4 3 = code := by
  apply BitVec.eq_of_getLsbD_eq
  intro i hi
  have hbit : (x.getLsbD (4 + i) && (0x70 : Byte).getLsbD (4 + i)) =
      (storedBits hdrType (code.setWidth 16)).getLsbD (4 + i) := by
    rw [← h, BitVec.getLsbD_and]
  rw [storedBits_getLsbD] at hbit
  interval_cases i <;> simp_all [hdrType]

/-! The fields. -/

/-- A field of an encoded packet is the value stored, cut to the field's width
(40_codec_primitives.md R112). -/
theorem getField_encodeLogicalOf {c : Cfg} (hc : c.wellFormed = true) (p : Packet) {n : FieldName}
    (hn : n ∈ fieldsOf c.variant (packetKind c p)) :
    (getFieldOf (c.layout.get c.variant (packetKind c p) n) (encodeLogicalOf c p)).toNat =
      (fieldValue c.variant p.body n).toNat % 2 ^ fieldWidth c.variant n := by
  rw [← getField_and_covered c _ hn, encodeLogical_covered hc]
  apply Nat.eq_of_testBit_eq
  intro b
  rw [Nat.testBit_mod_two_pow]
  exact getField_frameFields hc p hn b

/-! The constant bits, and the rest. -/

theorem encodeLogicalOf_universal (c : Cfg) (p : Packet) :
    (encodeLogicalOf c p).b1.getLsbD 7 = true := by
  show ((encodeLogicalOf c p).lane 1).getLsbD 7 = true
  rw [encodeLogicalOf_eq, Frame.lane_or, Frame.lane_or, BitVec.getLsbD_or, BitVec.getLsbD_or]
  show (_ || (0x80 : Byte).getLsbD 7 || _) = true
  simp

theorem encodeLogicalOf_fixup (c : Cfg) (p : Packet) :
    (encodeLogicalOf c p).and (c.fixupOf p.typeCode p.src.role) =
      c.fixupOf p.typeCode p.src.role := by
  rw [encodeLogicalOf_eq]
  apply Frame.ext_lane
  intro k _
  apply BitVec.eq_of_getLsbD_eq
  intro b _
  rw [Frame.lane_and, Frame.lane_or, BitVec.getLsbD_and, BitVec.getLsbD_or, Bool.and_comm, Bool.or_comm]
  exact inf_sup_self

/-- Nothing stands in an encoded packet beside the covered bits, the universal bit and the fixups. -/
theorem encodeLogicalOf_rest (c : Cfg) (p : Packet) :
    (encodeLogicalOf c p).and (invertFrame ((coveredBits c (packetKind c p)).or
      (Frame.or { b1 := 0x80 } (c.fixupOf p.typeCode p.src.role)))) = Frame.zero := by
  rw [encodeLogicalOf_eq, ← frameFields_covered]
  apply Frame.ext_lane
  intro k hk
  apply BitVec.eq_of_getLsbD_eq
  intro b hb
  rw [Frame.lane_and, Frame.lane_invert _ hk]
  simp only [Frame.lane_and, Frame.lane_or, BitVec.getLsbD_and, BitVec.getLsbD_or, BitVec.getLsbD_not,
    hb, decide_true, Bool.true_and, Frame.lane_zero]
  generalize ((coveredBits c (packetKind c p)).lane k).getLsbD b = covered
  generalize (Frame.lane { b1 := 0x80 } k).getLsbD b = universal
  generalize ((c.fixupOf p.typeCode p.src.role).lane k).getLsbD b = fixup
  cases covered <;> cases universal <;> cases fixup <;> simp

/-- A kind with no field leaves bytes 3 to 7 to the fixups. -/
theorem encodeLogicalOf_lane_of_noFields {c : Cfg} {p : Packet}
    (hnone : fieldsOf c.variant (packetKind c p) = []) {k : Nat} (hk : 3 ≤ k) :
    (encodeLogicalOf c p).lane k = (c.fixupOf p.typeCode p.src.role).lane k := by
  have hfields : frameFields c p = headerFrame p := by
    rw [frameFields, encodeBody, hnone]
    rfl
  have hhdr : (headerFrame p).lane k = 0 := by
    obtain ⟨j, rfl⟩ := Nat.exists_eq_add_of_le' hk
    exact headerFrame_lane p (j + 3)
  have huniversal : Frame.lane { b1 := 0x80 } k = 0 := by
    obtain ⟨j, rfl⟩ := Nat.exists_eq_add_of_le' hk
    rcases j with _ | _ | _ | _ | _ | j <;> rfl
  rw [encodeLogicalOf_eq, Frame.lane_or, Frame.lane_or, hfields, hhdr, huniversal]
  simp

end Sys2Proof
end

section
/-! The fields of an encoded packet hold the parts of its body (41_codec_frames.md R132 to R142), and
ENCODE and ENCODE_LOGICAL as instructions. -/

namespace Sys2Proof.Machine

/-- The field `n` holds the value that a body stores for it, cut to the field's width. -/
def holdsValue (v : Variant) (b : Body) (g : FieldName → Byte) (n : FieldName) : Prop :=
  (g n).toNat = (fieldValue v b n).toNat % 2 ^ fieldWidth v n

theorem holdsValue_encodeLogicalOf {c : Cfg} (hc : c.wellFormed = true) (p : Packet)
    {n : FieldName} (hn : n ∈ fieldsOf c.variant (packetKind c p)) :
    holdsValue c.variant p.body (fieldAt c (packetKind c p) (encodeLogicalOf c p)) n :=
  getField_encodeLogicalOf hc p hn

/-! One field. -/

section
variable {v : Variant} {b : Body} {g : FieldName → Byte} {n : FieldName}

theorem holdsFlag_of_value {x : Bool} (h : holdsValue v b g n) (hw : fieldWidth v n = 1)
    (hv : fieldValue v b n = flagValue x) : holdsFlag g n x := by
  rw [holdsValue, hv, hw] at h
  have hbyte : g n = (BitVec.ofBool x).setWidth 8 := by
    apply BitVec.eq_of_toNat_eq
    rw [h]
    cases x <;> rfl
  rw [holdsFlag, hbyte]
  cases x <;> rfl

theorem holdsNumber_of_value {m : Nat} {x : BitVec m} (h : holdsValue v b g n)
    (hm : m ≤ 8) (hw : fieldWidth v n = m) (hv : fieldValue v b n = x.setWidth 16) :
    (g n).setWidth m = x := by
  rw [holdsValue, hv, hw] at h
  apply BitVec.eq_of_toNat_eq
  have hx := x.isLt
  have hle : 2 ^ m ≤ 2 ^ 16 := Nat.pow_le_pow_right (by decide) (by omega)
  rw [BitVec.toNat_setWidth, h, BitVec.toNat_setWidth, Nat.mod_mod,
    Nat.mod_eq_of_lt (lt_of_lt_of_le hx hle), Nat.mod_eq_of_lt hx]

theorem holdsByte_of_value {x : Byte} (h : holdsValue v b g n) (hw : fieldWidth v n = 8)
    (hv : fieldValue v b n = x.setWidth 16) : g n = x := by
  rw [← holdsNumber_of_value h (by decide) hw hv, BitVec.setWidth_eq]

end

/-! The records. -/

section
variable {v : Variant} {g : FieldName → Byte}

theorem holdsCommon_of_values {b : ConfigBody}
    (h : ∀ n ∈ commonFields, holdsValue v (.config b) g n) : holdsCommon g b.common :=
  ⟨holdsFlag_of_value (h _ (by decide)) rfl rfl, holdsFlag_of_value (h _ (by decide)) rfl rfl,
    holdsNumber_of_value (h _ (by decide)) (by decide) rfl rfl,
    holdsFlag_of_value (h _ (by decide)) rfl rfl,
    holdsNumber_of_value (h _ (by decide)) (by decide) rfl rfl,
    holdsNumber_of_value (h _ (by decide)) (by decide) rfl rfl,
    holdsFlag_of_value (h _ (by decide)) rfl rfl, holdsFlag_of_value (h _ (by decide)) rfl rfl⟩

theorem holdsIU_of_values {b : ConfigBody}
    (h : ∀ n ∈ iuFields, holdsValue v (.config b) g n) : holdsIU g b.iu :=
  ⟨holdsFlag_of_value (h _ (by decide)) rfl rfl, holdsFlag_of_value (h _ (by decide)) rfl rfl,
    holdsFlag_of_value (h _ (by decide)) rfl rfl, holdsFlag_of_value (h _ (by decide)) rfl rfl,
    holdsFlag_of_value (h _ (by decide)) rfl rfl, holdsFlag_of_value (h _ (by decide)) rfl rfl,
    holdsFlag_of_value (h _ (by decide)) rfl rfl, holdsFlag_of_value (h _ (by decide)) rfl rfl,
    holdsFlag_of_value (h _ (by decide)) rfl rfl, holdsFlag_of_value (h _ (by decide)) rfl rfl,
    holdsNumber_of_value (h _ (by decide)) (by decide) rfl rfl⟩

theorem holdsCtl_of_values {b : ConfigBody}
    (h : ∀ n ∈ ctlFields, holdsValue v (.config b) g n) : holdsCtl g b.ctl := by
  unfold holdsCtl
  and_intros <;> exact holdsFlag_of_value (h _ (by decide)) rfl rfl

/-- A temperature field holds the rounded temperature (41_codec_frames.md R133). -/
theorem temperature_of_value_zoned {b : ConfigBody}
    (h : holdsValue .zoned (.config b) g .temperature) :
    (g .temperature).toNat = (b.ctl.temperature.toNat + 64) / 128 % 128 := by
  have ht := b.ctl.temperature.isLt
  have hvalue : (g .temperature).toNat =
      ((tempPackZoned b.ctl.temperature).setWidth 16).toNat % 2 ^ 7 := h
  rw [hvalue, BitVec.toNat_setWidth, tempPackZoned_toNat]
  omega

theorem temperature_of_value_legacy {b : ConfigBody}
    (h : holdsValue .legacy (.config b) g .temperature) :
    (g .temperature).toNat = (b.ctl.temperature.toNat + 128) / 256 % 64 := by
  have ht := b.ctl.temperature.isLt
  have hvalue : (g .temperature).toNat =
      ((tempPackLegacy b.ctl.temperature).setWidth 16).toNat % 2 ^ 6 := h
  rw [hvalue, BitVec.toNat_setWidth, tempPackLegacy_toNat]
  omega

theorem holdsFeatures_of_values {t : Features}
    (h : ∀ n ∈ featureFields, holdsValue v (.features t) g n) : holdsFeatures g t := by
  unfold holdsFeatures
  and_intros <;> exact holdsFlag_of_value (h _ (by decide)) rfl rfl

theorem holdsFunction_of_values {q : FunctionBody}
    (h : ∀ n ∈ fieldsOf v .function, holdsValue v (.function q) g n) : holdsFunction g q :=
  ⟨holdsByte_of_value (h _ (by simp [fieldsOf])) rfl rfl,
    holdsByte_of_value (h _ (by simp [fieldsOf])) rfl rfl,
    holdsNumber_of_value (h _ (by simp [fieldsOf])) (by decide) rfl rfl⟩

/-- A group map byte holds the zones of both groups, bit for bit (41_codec_frames.md R140). -/
theorem groupMap_getLsbD (z : ZoneFields) {i : Nat} (hi : i < 4) :
    (groupMapLo z).getLsbD (2 * i) = z.zoneGroupDay.getLsbD i ∧
      (groupMapLo z).getLsbD (2 * i + 1) = z.zoneGroupNight.getLsbD i ∧
      (groupMapHi z).getLsbD (2 * i) = z.zoneGroupDay.getLsbD (i + 4) ∧
      (groupMapHi z).getLsbD (2 * i + 1) = z.zoneGroupNight.getLsbD (i + 4) := by
  have heven : 2 * i / 2 = i := by omega
  have hodd : (2 * i + 1) / 2 = i := by omega
  rw [groupMapLo_getLsbD z (by omega), groupMapLo_getLsbD z (by omega),
    groupMapHi_getLsbD z (by omega), groupMapHi_getLsbD z (by omega), heven, hodd,
    if_pos (by omega), if_neg (by omega), if_pos (by omega), if_neg (by omega), Nat.add_comm 4 i]
  exact ⟨rfl, rfl, rfl, rfl⟩

theorem holdsZones_of_values {b : ZoneConfigBody}
    (h : ∀ n ∈ zoneFieldNames, holdsValue v (.zoneConfig b) g n) : holdsZones g b.zones := by
  have hlo : g .groupMapLo = groupMapLo b.zones :=
    holdsByte_of_value (h _ (by decide)) rfl rfl
  have hhi : g .groupMapHi = groupMapHi b.zones :=
    holdsByte_of_value (h _ (by decide)) rfl rfl
  refine ⟨holdsByte_of_value (h _ (by decide)) rfl rfl, ?_,
    holdsFlag_of_value (h _ (by decide)) rfl rfl, holdsFlag_of_value (h _ (by decide)) rfl rfl⟩
  intro i hi
  rw [hlo, hhi]
  exact groupMap_getLsbD b.zones hi

end

/-! Every kind. -/

/-- A frame that holds the value of every field of a kind holds the body. -/
theorem writtenAs_of_values {v : Variant} {g : FieldName → Byte} {k : Kind} {b : Body}
    (h : ∀ n ∈ fieldsOf v k, holdsValue v b g n)
    (hzoned : k = .zoneConfigIU ∨ k = .zoneConfigC ∨ k = .zoneFunctionIU → v = .zoned) :
    writtenAs v g k b := by
  cases k
  case configIU =>
    cases b
    case config b =>
      exact ⟨holdsCommon_of_values fun n hn => h n (List.mem_append_left _ hn),
        holdsIU_of_values fun n hn => h n (List.mem_append_right _ hn)⟩
    all_goals trivial
  case configC =>
    cases b
    case config b =>
      have hctl : ∀ n ∈ ctlFields, holdsValue v (.config b) g n :=
        fun n hn => h n (List.mem_append_right _ hn)
      refine ⟨holdsCommon_of_values fun n hn => h n (List.mem_append_left _ hn),
        holdsCtl_of_values hctl, ?_⟩
      cases v with
      | legacy => exact temperature_of_value_legacy (hctl _ (by decide))
      | zoned => exact temperature_of_value_zoned (hctl _ (by decide))
    all_goals trivial
  case error =>
    cases b
    case error code => exact holdsByte_of_value (h _ (List.mem_singleton.2 rfl)) rfl rfl
    all_goals trivial
  case features =>
    cases b
    case features t =>
      constructor
      · apply holdsFeatures_of_values (v := v)
        intro n hn
        cases v with
        | legacy => exact h n hn
        | zoned => exact h n (List.mem_append_left _ hn)
      · rintro rfl
        exact holdsFlag_of_value (h _ (by decide)) rfl rfl
    all_goals trivial
  case function =>
    cases b
    case function q => exact holdsFunction_of_values h
    all_goals trivial
  case zoneConfigIU =>
    obtain rfl := hzoned (by decide)
    cases b
    case zoneConfig b => exact holdsZones_of_values h
    all_goals trivial
  case zoneConfigC =>
    obtain rfl := hzoned (by decide)
    cases b
    case zoneConfig b =>
      exact ⟨holdsZones_of_values fun n hn => h n (List.mem_append_left _ hn),
        holdsFlag_of_value (h _ (by decide)) rfl rfl⟩
    all_goals trivial
  case zoneFunctionIU =>
    obtain rfl := hzoned (by decide)
    cases b
    case zoneFunction b =>
      exact ⟨holdsByte_of_value (h _ (by decide)) rfl rfl,
        holdsFlag_of_value (h _ (by decide)) rfl rfl⟩
    all_goals trivial
  case status | zoneFunctionC | unknown => trivial

/-- An encoded packet holds its body in the fields of its kind. -/
theorem writtenAs_encodeLogicalOf {c : Cfg} (hc : c.wellFormed = true) (p : Packet) :
    writtenAs c.variant (fieldAt c (packetKind c p) (encodeLogicalOf c p)) (packetKind c p)
      p.body := by
  apply writtenAs_of_values fun n hn => holdsValue_encodeLogicalOf hc p hn
  intro hzone
  apply kindOf_zoned (k := packetKind c p) rfl
  obtain h | h | h := hzone <;> simp [h]

/-- Settles O16: each clause is a law of the encoded frame. -/
theorem encodeFrame : Obligations.EncodeFrame := by
  unfold Obligations.EncodeFrame
  intro s p
  refine ⟨encodeLogicalOf s.cfg p, rfl, rfl, ?_⟩
  intro hc
  have hheader := encodeLogicalOf_and_headerBits hc p
  obtain ⟨hsrcRole, hsrcAddr⟩ :=
    address_of_byte ((hheader 0).trans (headerFrame_lane_source p))
  obtain ⟨htokRole, htokAddr⟩ :=
    address_of_byte ((hheader 1).trans (headerFrame_lane_token p))
  refine ⟨hsrcRole, hsrcAddr, htokRole, htokAddr, encodeLogicalOf_universal _ p,
    typeCode_of_byte ((hheader 2).trans (headerFrame_lane p 2)),
    fun n hn => getField_encodeLogicalOf hc p hn, ?_, encodeLogicalOf_fixup _ p,
    encodeLogicalOf_rest _ p⟩
  intro k hk
  obtain rfl : packetKind s.cfg p = k := (isKind_iff _ _ _ _).1 hk
  refine ⟨writtenAs_encodeLogicalOf hc p, ?_⟩
  intro hnone i hi _
  apply encodeLogicalOf_lane_of_noFields _ hi
  obtain h | h | h := hnone <;> rw [h] <;> rfl

end Sys2Proof.Machine
end

section
/-! The pseudo-forms as instructions of their own (30_encoding.md R104): the request is built, and sent
where the turn is held. -/

namespace Sys2Proof.Machine

/-- A packet built under the reply header is in `work.reply`, and nothing else changed. -/
theorem setReply_eq (s : State) (code : BitVec 3) (body : Body) :
    s.setReply code body =
      { s with work := { s.work with reply := some (replyPacket s code body) } } := by
  rw [← replyPacket_eq]
  rfl

/-- What the transmission of a reply does (42_fsm_rx.md R192). -/
theorem transmit_of_reply {s : State} {r : Packet} (hr : s.work.reply = some r) :
    transmit s = { s with
      work := { s.work with buf := encodeLogicalOf s.cfg r }
      ports := { s.ports with out := s.ports.out ++ sent s.cfg r } } := by
  simp only [transmit, hr, sent, encodeOf, State.emit, State.put, State.withWork, List.append_assoc,
    List.cons_append, List.nil_append]

theorem sendIfTurn_of_no_turn {s : State} (h : s.work.turn = false) : sendIfTurn s = s := by
  rw [sendIfTurn, h]
  rfl

theorem sendIfTurn_of_turn {s : State} (h : s.work.turn = true) : sendIfTurn s = transmit s := by
  rw [sendIfTurn, if_pos h]

/-- A form that is the reply of a type code and a body: built, and sent where the turn is held. -/
theorem exec_request {i : Instr} {s : State} {code : BitVec 3} {body : Body}
    (hexec : exec i s = .next (sendIfTurn (s.setReply code body))) :
    (s.work.turn = false →
      exec i s = .next { s with work := { s.work with reply := some (replyPacket s code body) } }) ∧
    (s.work.turn = true →
      exec i s = .next { s with
        work := { s.work with
          reply := some (replyPacket s code body)
          buf := encodeLogicalOf s.cfg (replyPacket s code body) }
        ports := { s.ports with out := s.ports.out ++ sent s.cfg (replyPacket s code body) } }) := by
  constructor
  · intro hturn
    rw [hexec, sendIfTurn_of_no_turn (s := s.setReply code body) hturn, setReply_eq]
  · intro hturn
    have hreply : (s.setReply code body).work.reply = some (replyPacket s code body) := by
      rw [setReply_eq]
    rw [hexec, sendIfTurn_of_turn (s := s.setReply code body) hturn, transmit_of_reply hreply,
      setReply_eq]

/-- Settles O17: each pseudo-form is its request, sent where the turn is held. -/
theorem pseudoForms : Obligations.PseudoForms := by
  unfold Obligations.PseudoForms
  intro s i r h
  obtain ⟨rfl, rfl⟩ | ⟨rfl, rfl⟩ | ⟨rfl, rfl⟩ := h
  · exact exec_request (code := typeFeatures) rfl
  · exact exec_request (code := typeZoneFunction) rfl
  · exact exec_request (code := typeZoneConfig) rfl

end Sys2Proof.Machine
end

section
/-! Noninterference of the bits no field covers (30_encoding.md R98, 93_implementation_defined.md U1): a
frame that is received shows in `RawRx` and in the buffer, and no later part of the transaction reads
either. -/

namespace Sys2Proof.Machine

/-- The state with another buffer, and with `l` before what is on its trace. -/
def replayed (l : List Output) (f : Frame) (s : State) : State :=
  { s with
    work := { s.work with buf := f }
    ports := { s.ports with out := l ++ s.ports.out } }

/-- An operation that neither reads the buffer or the trace nor writes the buffer. -/
def Blind (op : State → State) : Prop :=
  ∀ l f s, op (replayed l f s) = replayed l f (op s)

section
variable (l : List Output) (f : Frame) (s : State)

@[simp] theorem replayed_cfg : (replayed l f s).cfg = s.cfg := rfl
@[simp] theorem replayed_S : (replayed l f s).S = s.S := rfl
@[simp] theorem replayed_pending : (replayed l f s).work.pending = s.work.pending := rfl
@[simp] theorem replayed_reply : (replayed l f s).work.reply = s.work.reply := rfl

@[simp] theorem withS_replayed (g : Session → Session) :
    (replayed l f s).withS g = replayed l f (s.withS g) := rfl

@[simp] theorem emit_replayed (e : Event) :
    (replayed l f s).emit e = replayed l f (s.emit e) := by
  simp only [replayed, State.emit, State.put, List.append_assoc]

end

/-- The stage written on a replayed state. -/
theorem setStage_of_replayed {l : List Output} {f : Frame} {s s' : State} {st st' : Stage}
    (hs : s' = replayed l f s) (hst : st' = st) :
    s'.setStage st' = replayed l f (s.setStage st) := by
  subst hs hst
  simp only [State.setStage, withS_replayed, emit_replayed, replayed_S]

/-! Steps 1 and 2. -/

theorem rxDiscovery_blind (role : Role) : Blind (rxDiscovery role) := by
  intro l f s
  unfold rxDiscovery
  show (if s.S.stage = .findNextControllerRx then _ else _) = _
  split
  · cases role <;> exact setStage_of_replayed rfl rfl
  · rfl

theorem detectFeatures_blind (flags : BitVec 2) : Blind (detectFeatures flags) := by
  intro l f s
  unfold detectFeatures
  show (if s.S.stage = .detectFeatureSupport then _ else _) = _
  split
  · split <;> exact setStage_of_replayed rfl rfl
  · rfl

theorem noteErrorFlag_blind (e : Bool) : Blind (noteErrorFlag e) := by
  intro l f s
  unfold noteErrorFlag
  show (if e ≠ s.S.lastError then _ else _) = _
  split <;> rfl

theorem onConfigIU_blind (common : ConfigCommon) (iu : IUSub) : Blind (onConfigIU common iu) := by
  intro l f s
  rw [onConfigIU, detectFeatures_blind, noteErrorFlag_blind]
  rfl

theorem onFeaturesIU_blind (t : Features) : Blind (onFeaturesIU t) := by
  intro l f s
  unfold onFeaturesIU
  show (if s.S.stage = .featureRequest then _ else _) = _
  split
  · exact setStage_of_replayed rfl rfl
  · rfl

theorem onZoneFunctionIU_blind (b : ZoneFunctionBody) : Blind (onZoneFunctionIU b) := by
  intro l f s
  unfold onZoneFunctionIU
  show (if s.cfg.variant = .zoned ∧ s.S.stage = .zoneRequestEnabled then _ else _) = _
  split
  · exact setStage_of_replayed rfl rfl
  · rfl

theorem onZoneConfigIU_blind (z : ZoneFields) : Blind (onZoneConfigIU z) := by
  intro l f s
  unfold onZoneConfigIU
  show (if s.cfg.variant = .zoned then
    if s.S.stage = .zoneRequestActive then _ else _ else _) =
      replayed l f (if s.cfg.variant = .zoned then
        if s.S.stage = .zoneRequestActive then _ else _ else _)
  split
  · split
    · exact setStage_of_replayed rfl rfl
    · rfl
  · rfl

theorem dispatch_blind (p : Packet) : Blind (dispatch p) := by
  intro l f s
  unfold dispatch
  simp only [replayed_cfg]
  split
  · exact onConfigIU_blind _ _ l f s
  · rfl
  · split <;> rfl
  · split
    · exact onFeaturesIU_blind _ l f s
    · rfl
  · split <;> rfl
  · exact onZoneConfigIU_blind _ l f s
  · exact onZoneFunctionIU_blind _ l f s
  · rfl

/-! Step 3. -/

theorem probeNeighbour_blind : Blind probeNeighbour := by
  intro l f s
  unfold probeNeighbour
  show (if s.S.stage = .findNextControllerTx then _ else _) = _
  split
  · exact setStage_of_replayed rfl rfl
  · rfl

theorem chooseReply_replayed (l : List Output) (f : Frame) (s : State) :
    chooseReply (replayed l f s) = chooseReply s := rfl

theorem buildReply_blind (r : Reply) : Blind (buildReply r) := by
  intro l f s
  cases r
  case function =>
    simp only [buildReply, replyFunction, replayed_S]
    split <;> rfl
  all_goals rfl

/-- The transmission leaves a buffer of its own, where it sends. -/
theorem transmit_replayed (l : List Output) (f : Frame) (s : State) :
    ∃ f', transmit (replayed l f s) = replayed l f' (transmit s) := by
  cases hr : s.work.reply with
  | none =>
    refine ⟨f, ?_⟩
    simp only [transmit, replayed_reply, hr]
  | some r =>
    refine ⟨encodeLogicalOf s.cfg r, ?_⟩
    rw [transmit_of_reply hr, transmit_of_reply (s := replayed l f s) hr]
    simp only [replayed, List.append_assoc]

/-- Step 3 with the turn, on the state in which the turn is noted. -/
theorem busTurn_of_turn {p : Packet} {last : Bool} {s : State}
    (h : givesTurn s.cfg p last = true) :
    busTurn p last s =
      let a := probeNeighbour (s.withWork fun w => { w with turn := true })
      transmit (buildReply (chooseReply a) a) := by
  simp only [busTurn, h, State.withWork_work, if_true]

/-- Step 3 without the turn. -/
theorem busTurn_of_noTurn {p : Packet} {last : Bool} {s : State}
    (h : givesTurn s.cfg p last = false) :
    busTurn p last s = s.withWork fun w => { w with turn := false } := by
  simp only [busTurn, h, State.withWork_work, Bool.false_eq_true, if_false]

theorem busTurn_replayed (p : Packet) (last : Bool) (l : List Output) (f : Frame) (s : State) :
    ∃ f', busTurn p last (replayed l f s) = replayed l f' (busTurn p last s) := by
  cases hgives : givesTurn s.cfg p last with
  | false =>
    refine ⟨f, ?_⟩
    rw [busTurn_of_noTurn hgives, busTurn_of_noTurn (s := replayed l f s) hgives]
    rfl
  | true =>
    have hnoted : (replayed l f s).withWork (fun w => { w with turn := true }) =
        replayed l f (s.withWork fun w => { w with turn := true }) := rfl
    rw [busTurn_of_turn hgives, busTurn_of_turn (s := replayed l f s) hgives, hnoted,
      probeNeighbour_blind]
    simp only [chooseReply_replayed, buildReply_blind _ l f _]
    exact transmit_replayed l f _

/-! The transaction. -/

/-- The state before a transaction, with no trace and no transient. -/
def untraced (s : State) : State :=
  { s with work := Transients.idle, ports := { s.ports with out := [] } }

theorem rxStart_eq (raw : Frame) (s : State) :
    rxStart raw s = replayed (s.ports.out ++ [.evt (.rawRx raw)]) raw (untraced s) := by
  simp only [rxStart, State.emit, State.put, State.withWork, replayed, untraced, List.append_nil]

/-- The end of the transaction clears the buffer. -/
theorem rxEnd_replayed (l : List Output) (f : Frame) (s : State) :
    rxEnd (replayed l f s) =
      { rxEnd s with ports := { (rxEnd s).ports with out := l ++ (rxEnd s).ports.out } } := by
  cases hp : s.work.pending <;>
    simp only [rxEnd, replayed_pending, hp, emit_replayed] <;> rfl

/-- The transaction on a decoded packet, without the frame it was decoded from: what it leaves, and on
the trace what follows `RawRx`. -/
def packetRun (p : Packet) (last : Bool) (s : State) : State :=
  rxEnd (busTurn p last (dispatch p (rxDiscovery p.src.role (untraced s))))

/-- RX_FRAME is the transaction on the decoded packet, with the frame in its `RawRx` only. -/
theorem exec_rxFrame_eq (s : State) (w : Frame) (last : Bool) :
    exec (.rxFrame w last) s =
      let t := packetRun (decodeOf s.cfg w) last s
      .next { t with ports := { t.ports with
        out := s.ports.out ++ .evt (.rawRx (invertFrame w)) :: t.ports.out } } := by
  have hexec : exec (.rxFrame w last) s = .next (receiveFrame (invertFrame w) (decodeOf s.cfg w) last
      (dispatch (decodeOf s.cfg w)) s) := rfl
  generalize decodeOf s.cfg w = p at hexec ⊢
  obtain ⟨f, hf⟩ := busTurn_replayed p last (s.ports.out ++ [.evt (.rawRx (invertFrame w))])
    (invertFrame w) (dispatch p (rxDiscovery p.src.role (untraced s)))
  rw [hexec, receiveFrame, rxStart_eq, rxDiscovery_blind, dispatch_blind, hf, rxEnd_replayed,
    List.append_assoc]
  rfl

/-- Settles O34: the two frames decode to one packet, and the transaction reads no more of them. -/
theorem ignoredFrameBits : Obligations.IgnoredFrameBits := by
  unfold Obligations.IgnoredFrameBits
  intro s w x last m hm
  have hdecode : decodeOf s.cfg w = decodeOf s.cfg x := decodeLogicalOf_congr hm
  refine ⟨_, _, exec_rxFrame_eq s w last, rfl, ?_⟩
  rw [exec_rxFrame_eq s x last, hdecode]

end Sys2Proof.Machine
end

section
/-! The codec primitives (40_codec_primitives.md R110 to R114): what each primitive answers as an
instruction, once, and the facts about the function it answers. -/

namespace Sys2Proof

/-! INVERT. -/

/-- 40_codec_primitives.md R110: no frame is its own complement: bit 0 of its lane 0 differs. -/
theorem invertFrame_ne (f : Frame) : invertFrame f ≠ f := by
  intro h
  have hlane : ~~~(f.lane 0) = f.lane 0 := by rw [← Frame.lane_invert f (by decide), h]
  have hbit := congrArg (fun x => BitVec.getLsbD x 0) hlane
  simp at hbit

/-! The field store. -/

theorem lane_setFieldOf_same {d : Descriptor} (hd : d.byteOk = true) (f : Frame) (v : BitVec 16) :
    (setFieldOf d f v).lane d.byte = f.lane d.byte ||| storedBits d v := by
  rw [lane_setFieldOf, if_pos ⟨rfl, of_decide_eq_true hd⟩]

theorem lane_setFieldOf_of_ne {d : Descriptor} {k : Nat} (hk : k ≠ d.byte) (f : Frame)
    (v : BitVec 16) : (setFieldOf d f v).lane k = f.lane k := by
  rw [lane_setFieldOf, if_neg fun h => hk h.1]
  exact BitVec.or_zero

/-- 40_codec_primitives.md R112: a store never clears a bit. -/
theorem lane_setFieldOf_and (d : Descriptor) (f : Frame) (v : BitVec 16) (k : Nat) :
    (setFieldOf d f v).lane k &&& f.lane k = f.lane k := by
  rw [lane_setFieldOf]
  ext b
  rw [BitVec.getElem_and, BitVec.getElem_or]
  cases (f.lane k)[b] <;> simp

/-- What is stored lies inside the mask. -/
theorem storedBits_and_not_mask (d : Descriptor) (v : BitVec 16) :
    storedBits d v &&& ~~~d.mask = 0 := by
  rw [storedBits, BitVec.and_assoc, BitVec.and_not_self]
  exact BitVec.and_zero

theorem storedBits_zero (d : Descriptor) : storedBits d 0 = 0 := by
  simp [storedBits]

theorem setFieldOf_zero (d : Descriptor) (f : Frame) : setFieldOf d f 0 = f := by
  apply Frame.ext_lane
  intro k _
  rw [lane_setFieldOf, storedBits_zero, ite_self]
  exact BitVec.or_zero

/-- What is stored, read at the field's own bits, is the low bits of the value. -/
theorem storedBits_getLsbD_shift {d : Descriptor} (hm : d.maskOk = true) (v : BitVec 16) (b : Nat) :
    (storedBits d v).getLsbD (d.shift + b) = (decide (b < popCount d.mask) && v.getLsbD b) := by
  rw [storedBits_getLsbD, mask_getLsbD d hm, Nat.add_sub_cancel_left, Bool.and_comm]
  simp

/-- 40_codec_primitives.md R112: a field that was 0 reads back as the value modulo its width. -/
theorem getFieldOf_setFieldOf_toNat {d : Descriptor} (hd : d.byteOk = true) (hm : d.maskOk = true)
    {f : Frame} (hclear : f.lane d.byte &&& d.mask = 0) (v : BitVec 16) :
    (getFieldOf d (setFieldOf d f v)).toNat = v.toNat % 2 ^ popCount d.mask := by
  apply Nat.eq_of_testBit_eq
  intro b
  have hold : (decide (b < popCount d.mask) && (f.lane d.byte).getLsbD (d.shift + b)) = false := by
    rw [← getFieldOf_getLsbD d hm f b, getFieldOf, hclear]
    simp
  rw [BitVec.testBit_toNat, Nat.testBit_mod_two_pow, BitVec.testBit_toNat, getFieldOf_getLsbD d hm,
    lane_setFieldOf_same hd, BitVec.getLsbD_or, Bool.and_or_distrib_left, hold, Bool.false_or,
    storedBits_getLsbD_shift hm, ← Bool.and_assoc, Bool.and_self]

/-! The odd/even bit pair, for either parity. -/

open Machine (parityNumber)

theorem parityNumber_lt (p : Parity) : parityNumber p < 2 := by
  cases p <;> decide

theorem parityNumber_injective {p q : Parity} (h : parityNumber p = parityNumber q) : p = q :=
  match p, q, h with
  | .even, .even, _ => rfl
  | .odd, .odd, _ => rfl

/-- 40_codec_primitives.md R113. -/
theorem extractBits_getLsbD (b : Byte) (p : Parity) {k : Nat} (hk : k < 4) :
    (extractBits b p).getLsbD k = b.getLsbD (2 * k + parityNumber p) := by
  cases p with
  | even => exact extractBits_even b hk
  | odd => exact extractBits_odd b hk

/-- 40_codec_primitives.md R114. -/
theorem interleaveBits_getLsbD (v : Byte) (p : Parity) {k : Nat} (hk : k < 8) :
    (interleaveBits v p).getLsbD k = (decide (k % 2 = parityNumber p) && v.getLsbD (k / 2)) := by
  cases p with
  | even => exact interleaveBits_even v hk
  | odd => exact interleaveBits_odd v hk

/-- `INTERLEAVE` at a position of its own parity or of the other one. -/
theorem interleaveBits_getLsbD_pair (v : Byte) (p : Parity) {k j : Nat} (hk : k < 4) (hj : j < 2) :
    (interleaveBits v p).getLsbD (2 * k + j) = (decide (j = parityNumber p) && v.getLsbD k) := by
  rw [interleaveBits_getLsbD v p (by omega), show (2 * k + j) % 2 = j by omega,
    show (2 * k + j) / 2 = k by omega]

/-- 40_codec_primitives.md R118: the parity that was interleaved gives the low 4 bits back. -/
theorem extractBits_interleaveBits (v : Byte) (p : Parity) :
    extractBits (interleaveBits v p) p = v.setWidth 4 := by
  apply BitVec.eq_of_getLsbD_eq
  intro k hk
  rw [extractBits_getLsbD _ p hk, interleaveBits_getLsbD_pair v p hk (parityNumber_lt p),
    BitVec.getLsbD_setWidth, decide_eq_true rfl, decide_eq_true hk]

/-- 40_codec_primitives.md R118: the other parity was left 0. -/
theorem extractBits_interleaveBits_of_ne (v : Byte) {p q : Parity} (h : q ≠ p) :
    extractBits (interleaveBits v p) q = 0 := by
  apply BitVec.eq_of_getLsbD_eq
  intro k hk
  rw [extractBits_getLsbD _ q hk, interleaveBits_getLsbD_pair v p hk (parityNumber_lt q),
    decide_eq_false fun hpq => h (parityNumber_injective hpq)]
  exact BitVec.getLsbD_zero.symm

/-- Extracting a parity and interleaving it again keeps the bits of that parity. -/
theorem interleaveBits_extractBits_getLsbD (b : Byte) (p : Parity) {k : Nat} (hk : k < 8) :
    (interleaveBits ((extractBits b p).setWidth 8) p).getLsbD k =
      (decide (k % 2 = parityNumber p) && b.getLsbD k) := by
  rw [interleaveBits_getLsbD _ p hk, BitVec.getLsbD_setWidth,
    decide_eq_true (show k / 2 < 8 by omega), Bool.true_and, extractBits_getLsbD b p (by omega)]
  by_cases hp : k % 2 = parityNumber p
  · rw [show 2 * (k / 2) + parityNumber p = k by omega]
  · rw [decide_eq_false hp, Bool.false_and, Bool.false_and]

/-- 40_codec_primitives.md R118: with the mask of a parity given by its bits. -/
theorem interleaveBits_extractBits (b m : Byte) (p : Parity)
    (hm : ∀ k, k < 8 → m.getLsbD k = decide (k % 2 = parityNumber p)) :
    interleaveBits ((extractBits b p).setWidth 8) p = b &&& m := by
  apply BitVec.eq_of_getLsbD_eq
  intro k hk
  rw [interleaveBits_extractBits_getLsbD b p hk, BitVec.getLsbD_and, hm k hk, Bool.and_comm]

theorem interleaveBits_extractBits_even (b : Byte) :
    interleaveBits ((extractBits b .even).setWidth 8) .even = b &&& 0x55 :=
  interleaveBits_extractBits b _ .even (by decide)

theorem interleaveBits_extractBits_odd (b : Byte) :
    interleaveBits ((extractBits b .odd).setWidth 8) .odd = b &&& 0xAA :=
  interleaveBits_extractBits b _ .odd (by decide)

/-- The two parity masks cover a byte. -/
theorem and_parityMasks_or (b : Byte) : b &&& 0x55 ||| b &&& 0xAA = b := by
  rw [← BitVec.and_or_distrib_left]
  exact BitVec.and_allOnes

/-! The group masks. -/

theorem groupMask_even_of_groupMaps (z : ZoneFields) :
    groupMask (groupMapLo z) (groupMapHi z) .even = z.zoneGroupDay := by
  apply BitVec.eq_of_getLsbD_eq
  intro k hk
  rw [groupMask_getLsbD _ _ _ hk]
  split
  case isTrue h =>
    rw [extractBits_even _ h, groupMapLo_getLsbD z (by omega), if_pos (by omega),
      show 2 * k / 2 = k by omega]
  case isFalse h =>
    rw [extractBits_even _ (by omega), groupMapHi_getLsbD z (by omega), if_pos (by omega),
      show 4 + 2 * (k - 4) / 2 = k by omega]

theorem groupMask_odd_of_groupMaps (z : ZoneFields) :
    groupMask (groupMapLo z) (groupMapHi z) .odd = z.zoneGroupNight := by
  apply BitVec.eq_of_getLsbD_eq
  intro k hk
  rw [groupMask_getLsbD _ _ _ hk]
  split
  case isTrue h =>
    rw [extractBits_odd _ h, groupMapLo_getLsbD z (by omega), if_neg (by omega),
      show (2 * k + 1) / 2 = k by omega]
  case isFalse h =>
    rw [extractBits_odd _ (by omega), groupMapHi_getLsbD z (by omega), if_neg (by omega),
      show 4 + (2 * (k - 4) + 1) / 2 = k by omega]

/-- Settles O14: each bit by the byte's own law, and the masks read back through EXTRACT. -/
theorem groupMaps : Obligations.GroupMaps := by
  unfold Obligations.GroupMaps
  intro z
  refine ⟨?_, groupMask_even_of_groupMaps z, groupMask_odd_of_groupMaps z⟩
  intro k hk
  refine ⟨?_, ?_, ?_, ?_⟩
  · rw [groupMapLo_getLsbD z (by omega), if_pos (by omega), show 2 * k / 2 = k by omega]
  · rw [groupMapLo_getLsbD z (by omega), if_neg (by omega), show (2 * k + 1) / 2 = k by omega]
  · rw [groupMapHi_getLsbD z (by omega), if_pos (by omega), show 4 + 2 * k / 2 = k + 4 by omega]
  · rw [groupMapHi_getLsbD z (by omega), if_neg (by omega),
      show 4 + (2 * k + 1) / 2 = k + 4 by omega]

end Sys2Proof

namespace Sys2Proof.Machine

/-! The primitives as instructions: each answers in every state, and changes the result or
the buffer only. -/

theorem exec_invert (f : Frame) (s : State) :
    exec (.invert f) s = .next (withResult (.frame (invertFrame f)) s) := rfl

theorem exec_getField (d : Descriptor) (s : State) :
    exec (.getField d) s = .next (withResult (.byte (getFieldOf d s.work.buf)) s) := rfl

theorem exec_setField (d : Descriptor) (v : BitVec 16) (s : State) :
    exec (.setField d v) s = .next (withBuffer (setFieldOf d s.work.buf v) s) := rfl

theorem exec_extract (b : Byte) (p : Parity) (s : State) :
    exec (.extract b p) s = .next (withResult (.nibble (extractBits b p)) s) := rfl

theorem exec_interleave (v : Byte) (p : Parity) (s : State) :
    exec (.interleave v p) s = .next (withResult (.byte (interleaveBits v p)) s) := rfl

/-- Settles O8: INVERT is `invertFrame`, lane by lane the complement. -/
theorem invert : Obligations.Invert := by
  unfold Obligations.Invert
  intro s f
  refine ⟨invertFrame f, exec_invert f s, fun k hk => Frame.lane_invert f hk, ?twice, ?zero,
    invertFrame_ne f⟩
  case twice => rw [exec_invert, invertFrame_invertFrame]
  case zero =>
    rintro rfl
    decide

/-- Settles O9: the load reads one lane through the mask, so a buffer that agrees there loads the
same. -/
theorem getField : Obligations.GetField := by
  unfold Obligations.GetField
  intro s d _ hmask
  refine ⟨getFieldOf d s.work.buf, rfl, exec_getField d s, getFieldOf_lt d hmask s.work.buf, ?_⟩
  intro f hf
  have hload : getFieldOf d f = getFieldOf d s.work.buf := by rw [getFieldOf, hf, getFieldOf]
  rw [exec_getField, ← hload]
  rfl

/-- Settles O10: the store ORs `storedBits`, which lie inside the mask, into one lane. -/
theorem setField : Obligations.SetField := by
  unfold Obligations.SetField
  intro s d v hbyte hmask
  have hlane := lane_setFieldOf_same hbyte s.work.buf v
  refine ⟨setFieldOf d s.work.buf v, exec_setField d v s, hlane,
    fun k hk => lane_setFieldOf_of_ne hk _ v, lane_setFieldOf_and d _ v, ?outside,
    fun hclear => getFieldOf_setFieldOf_toNat hbyte hmask hclear v, ?zero⟩
  case outside =>
    rw [hlane, BitVec.and_or_distrib_right, storedBits_and_not_mask]
    exact BitVec.or_zero
  case zero =>
    rintro rfl
    exact setFieldOf_zero d s.work.buf

/-- Settles O11: both primitives bit by bit, INTERLEAVE at the positions of either parity. -/
theorem extractInterleave : Obligations.ExtractInterleave := by
  unfold Obligations.ExtractInterleave
  intro s b v p
  have hp := parityNumber_lt p
  refine ⟨extractBits b p, interleaveBits v p, exec_extract b p s,
    fun k hk => extractBits_getLsbD b p hk, exec_interleave v p s, ?same, ?other⟩
  case same =>
    intro k hk
    rw [interleaveBits_getLsbD_pair v p hk hp, decide_eq_true rfl, Bool.true_and]
  case other =>
    intro k hk
    rw [interleaveBits_getLsbD_pair v p hk (by omega), decide_eq_false (by omega), Bool.false_and]

/-- Settles O12: the laws of R118 for `extractBits` and `interleaveBits`, run as instructions. -/
theorem pairLaws : Obligations.PairLaws := by
  unfold Obligations.PairLaws
  intro s b v p q
  refine ⟨extractBits b .even, extractBits b .odd, interleaveBits v p, b &&& 0x55, b &&& 0xAA,
    exec_interleave v p s, ?same, ?other, exec_extract b .even s, exec_extract b .odd s, ?even,
    ?odd, rfl, rfl, and_parityMasks_or b⟩
  case same => rw [exec_extract, extractBits_interleaveBits]
  case other =>
    intro hqp
    rw [exec_extract, extractBits_interleaveBits_of_ne v hqp]
  case even => rw [exec_interleave, interleaveBits_extractBits_even]
  case odd => rw [exec_interleave, interleaveBits_extractBits_odd]

end Sys2Proof.Machine
end

section
/-! The fields of a frame determine the body of a canonical packet (41_codec_frames.md R145): two bodies
that the same field bytes hold are one. -/

namespace Sys2Proof.Machine

/-! The records. -/

section
variable {g : FieldName → Byte}

theorem holdsCommon_unique {m n : ConfigCommon} (hm : holdsCommon g m) (hn : holdsCommon g n) :
    m = n := by
  obtain ⟨_, _, _, _, _, _, _, _⟩ := m
  obtain ⟨_, _, _, _, _, _, _, _⟩ := n
  obtain ⟨rfl, rfl, rfl, rfl, rfl, rfl, rfl, rfl⟩ := hm
  obtain ⟨rfl, rfl, rfl, rfl, rfl, rfl, rfl, rfl⟩ := hn
  rfl

theorem holdsIU_unique {u w : IUSub} (hu : holdsIU g u) (hw : holdsIU g w) : u = w := by
  obtain ⟨_, _, _, _, _, _, _, _, _, _, _⟩ := u
  obtain ⟨_, _, _, _, _, _, _, _, _, _, _⟩ := w
  obtain ⟨rfl, rfl, rfl, rfl, rfl, rfl, rfl, rfl, rfl, rfl, rfl⟩ := hu
  obtain ⟨rfl, rfl, rfl, rfl, rfl, rfl, rfl, rfl, rfl, rfl, rfl⟩ := hw
  rfl

/-- `holdsCtl` leaves the temperature open. -/
theorem holdsCtl_unique {k l : CtlSub} (hk : holdsCtl g k) (hl : holdsCtl g l)
    (htemp : k.temperature = l.temperature) : k = l := by
  obtain ⟨_, _, _, _, _, _, _⟩ := k
  obtain ⟨_, _, _, _, _, _, _⟩ := l
  obtain ⟨rfl, rfl, rfl, rfl, rfl, rfl⟩ := hk
  obtain ⟨rfl, rfl, rfl, rfl, rfl, rfl⟩ := hl
  obtain rfl := htemp
  rfl

/-- `holdsFeatures` leaves `Zones` open, which the Legacy variant has no field for. -/
theorem holdsFeatures_unique {t u : Features} (ht : holdsFeatures g t) (hu : holdsFeatures g u)
    (hzones : t.zones = u.zones) : t = u := by
  obtain ⟨_, _, _, _, _, _, _, _, _, _, _, _, _, _, _, _, _⟩ := t
  obtain ⟨_, _, _, _, _, _, _, _, _, _, _, _, _, _, _, _, _⟩ := u
  obtain ⟨rfl, rfl, rfl, rfl, rfl, rfl, rfl, rfl, rfl, rfl, rfl, rfl, rfl, rfl, rfl, rfl⟩ := ht
  obtain ⟨rfl, rfl, rfl, rfl, rfl, rfl, rfl, rfl, rfl, rfl, rfl, rfl, rfl, rfl, rfl, rfl⟩ := hu
  obtain rfl := hzones
  rfl

theorem holdsFunction_unique {q r : FunctionBody} (hq : holdsFunction g q)
    (hr : holdsFunction g r) : q = r := by
  obtain ⟨_, _, _⟩ := q
  obtain ⟨_, _, _⟩ := r
  obtain ⟨rfl, rfl, rfl⟩ := hq
  obtain ⟨rfl, rfl, rfl⟩ := hr
  rfl

/-- Two bytes with the same bits in either half are equal. -/
theorem eq_of_halves {x y : Byte} (h : ∀ i, i < 4 →
    x.getLsbD i = y.getLsbD i ∧ x.getLsbD (i + 4) = y.getLsbD (i + 4)) : x = y := by
  apply BitVec.eq_of_getLsbD_eq
  intro i hi
  by_cases h4 : i < 4
  · exact (h i h4).1
  · rw [← Nat.sub_add_cancel (show 4 ≤ i by omega)]
    exact (h (i - 4) (by omega)).2

theorem holdsZones_unique {y z : ZoneFields} (hy : holdsZones g y) (hz : holdsZones g z) :
    y = z := by
  obtain ⟨_, yday, ynight, _, _⟩ := y
  obtain ⟨_, zday, znight, _, _⟩ := z
  obtain ⟨rfl, hymap, rfl, rfl⟩ := hy
  obtain ⟨rfl, hzmap, rfl, rfl⟩ := hz
  have hday : yday = zday := by
    apply eq_of_halves
    intro i hi
    obtain ⟨hyLo, _, hyHi, _⟩ := hymap i hi
    obtain ⟨hzLo, _, hzHi, _⟩ := hzmap i hi
    exact ⟨hyLo.symm.trans hzLo, hyHi.symm.trans hzHi⟩
  have hnight : ynight = znight := by
    apply eq_of_halves
    intro i hi
    obtain ⟨_, hyLo, _, hyHi⟩ := hymap i hi
    obtain ⟨_, hzLo, _, hzHi⟩ := hzmap i hi
    exact ⟨hyLo.symm.trans hzLo, hyHi.symm.trans hzHi⟩
  rw [hday, hnight]

/-- A canonical temperature is the one unpacked from the field it is rounded into (41_codec_frames.md
R145, 40_codec_primitives.md R115). -/
theorem temperature_unique_zoned {w : Byte} {t u : Temp} (hcanon : tempCanonical .zoned u = true)
    (hread : t.toNat = w.toNat % 128 * 128)
    (hwritten : w.toNat = (u.toNat + 64) / 128 % 128) : t = u := by
  simp only [tempCanonical, Bool.and_eq_true, beq_iff_eq, decide_eq_true_eq] at hcanon
  apply BitVec.eq_of_toNat_eq
  omega

/-- The same in the Legacy variant (40_codec_primitives.md R116). -/
theorem temperature_unique_legacy {w : Byte} {t u : Temp} (hcanon : tempCanonical .legacy u = true)
    (hread : t.toNat = w.toNat % 64 * 256)
    (hwritten : w.toNat = (u.toNat + 128) / 256 % 64) : t = u := by
  simp only [tempCanonical, Bool.and_eq_true, beq_iff_eq, decide_eq_true_eq] at hcanon
  apply BitVec.eq_of_toNat_eq
  omega

end

/-! Every kind. -/

/-- The body that the fields of a packet's kind give is the packet's own, if it is canonical and the
fields hold it. -/
theorem body_eq_of_readsAs {c : Cfg} {p : Packet} {g : FieldName → Byte} {body : Body}
    (hshape : p.shaped c = true) (hcanon : p.bodyCanonical c = true)
    (hread : readsAs c.variant g body (packetKind c p))
    (hwritten : writtenAs c.variant g (packetKind c p) p.body) : body = p.body := by
  rw [Packet.shaped] at hshape
  rw [Packet.bodyCanonical] at hcanon
  generalize packetKind c p = k at *
  generalize p.body = given at *
  cases k <;> cases given <;> cases hshape
  -- of the pairs of a kind and a body, those of one shape are left
  case configIU.config b =>
    obtain ⟨m, u, rfl, hm, hu⟩ := hread
    obtain ⟨hcommon, hiu⟩ := hwritten
    have hctl : b.ctl = {} := eq_of_beq hcanon
    rw [holdsCommon_unique hm hcommon, holdsIU_unique hu hiu, ← hctl]
  case configC.config b =>
    obtain ⟨m, l, rfl, hm, hl, htemp⟩ := hread
    obtain ⟨hcommon, hctl, hstored⟩ := hwritten
    obtain ⟨hiuBeq, htempCanon⟩ := Bool.and_eq_true_iff.1 hcanon
    have hiu : b.iu = {} := eq_of_beq hiuBeq
    have htemperature : l.temperature = b.ctl.temperature := by
      generalize c.variant = v at htemp hstored htempCanon
      cases v with
      | legacy => exact temperature_unique_legacy htempCanon htemp hstored
      | zoned => exact temperature_unique_zoned htempCanon htemp hstored
    rw [holdsCommon_unique hm hcommon, holdsCtl_unique hl hctl htemperature, ← hiu]
  case features.features t =>
    obtain ⟨u, rfl, hu, hzones⟩ := hread
    obtain ⟨ht, hstored⟩ := hwritten
    have hz : u.zones = t.zones := by
      rw [hzones]
      cases hv : c.variant with
      | zoned => exact hstored hv
      | legacy => simpa [hv] using hcanon
    rw [holdsFeatures_unique hu ht hz]
  case function.function q =>
    obtain ⟨r, rfl, hr⟩ := hread
    rw [holdsFunction_unique hr hwritten]
  case zoneConfigIU.zoneConfig b =>
    obtain ⟨z, rfl, hz⟩ := hread
    have hwrite : false = b.write := by simpa using hcanon
    rw [holdsZones_unique hz hwritten, hwrite]
  case zoneConfigC.zoneConfig b =>
    obtain ⟨z, w, rfl, hz, hw⟩ := hread
    obtain ⟨hzones, hwrite⟩ := hwritten
    have hwb : w = b.write := hw.symm.trans hwrite
    rw [holdsZones_unique hz hzones, hwb]
  case zoneFunctionIU.zoneFunction b =>
    obtain ⟨w, rfl, hw⟩ := hread
    obtain ⟨henabled, hcommon⟩ := hwritten
    have hwb : w = b.commonZone := hw.symm.trans hcommon
    rw [henabled, hwb]
  case zoneFunctionC.zoneFunction b =>
    have hb : b = {} := eq_of_beq hcanon
    rw [hb]
    exact hread
  case error.error code =>
    have hcode : g .code = code := hwritten
    rw [← hcode]
    exact hread
  case status.status | unknown.none => exact hread

end Sys2Proof.Machine
end

section
/-! DECODE of ENCODE and ENCODE of DECODE (41_codec_frames.md R145, R146): any frame that agrees with an
encoded canonical packet on the covered bits decodes to that packet. -/

namespace Sys2Proof.Machine

/-! The header. -/

theorem role_eq_of_controller_iff {r q : Role} (h : r = .controller ↔ q = .controller) : r = q := by
  cases r <;> cases q <;> simp_all

/-- A header byte that holds an address of at most 15 decodes to it (30_encoding.md R71, R73). -/
theorem decodeAddress_of_headerByte {k : Nat} {f : Frame} {a : Address} (ha : a.addr.toNat ≤ 15)
    (hbyte : f.lane k &&& 0x2F = addressByte a) :
    decodeAddress ⟨k, 0x20, 5⟩ ⟨k, 0x0F, 0⟩ f = a := by
  obtain ⟨hrole, haddr⟩ := address_of_byte hbyte
  obtain ⟨role, addr⟩ := a
  have hr : (decodeAddress ⟨k, 0x20, 5⟩ ⟨k, 0x0F, 0⟩ f).role = role :=
    role_eq_of_controller_iff ((decodeAddress_role_iff _ rfl rfl f).trans hrole)
  have hn : getFieldOf ⟨k, 0x0F, 0⟩ f = addr := by
    rw [getFieldOf_addrBits rfl rfl, haddr]
    apply BitVec.eq_of_toNat_eq
    simp only [BitVec.toNat_setWidth] at ha ⊢
    omega
  rw [← hr, ← hn]
  rfl

/-! The packet. -/

/-- 41_codec_frames.md R145, on the logical frame. -/
theorem decodeLogicalOf_encodeLogicalOf {c : Cfg} (hc : c.wellFormed = true) {p : Packet}
    (hp : p.canonical c = true) : decodeLogicalOf c (encodeLogicalOf c p) = p := by
  simp only [Packet.canonical, Bool.and_eq_true, decide_eq_true_eq] at hp
  obtain ⟨⟨⟨hshape, hsrcAddr⟩, htokAddr⟩, hcanon⟩ := hp
  have hheader := encodeLogicalOf_and_headerBits hc p
  have hsrc : decodeAddress hdrSourceType hdrSourceAddress (encodeLogicalOf c p) = p.src :=
    decodeAddress_of_headerByte hsrcAddr ((hheader 0).trans (headerFrame_lane_source p))
  have htok : decodeAddress hdrTokenType hdrTokenAddress (encodeLogicalOf c p) = p.tok :=
    decodeAddress_of_headerByte htokAddr ((hheader 1).trans (headerFrame_lane_token p))
  have hcode : decodeType (encodeLogicalOf c p) = p.typeCode :=
    (decodeType_eq _).trans (typeCode_of_byte ((hheader 2).trans (headerFrame_lane p 2)))
  have hbody : decodeBody c (packetKind c p) (encodeLogicalOf c p) = p.body :=
    body_eq_of_readsAs hshape hcanon (readsAs_decodeBody c _ _) (writtenAs_encodeLogicalOf hc p)
  unfold decodeLogicalOf
  simp only [hsrc, htok, hcode]
  rw [show kindOf c.variant p.typeCode p.src.role = packetKind c p from rfl, hbody]

/-- A frame whose covered bits are the fields of a canonical packet decodes to the packet. -/
theorem decodeLogicalOf_of_covered {c : Cfg} (hc : c.wellFormed = true) {p : Packet}
    (hp : p.canonical c = true) {f : Frame}
    (hf : f.and (coveredBits c (packetKind c p)) = frameFields c p) :
    decodeLogicalOf c f = p := by
  have hdecode := decodeLogicalOf_encodeLogicalOf hc hp
  rw [← hdecode]
  symm
  apply decodeLogicalOf_congr
  rw [hdecode, encodeLogical_covered hc, hf]

/-- 41_codec_frames.md R145, on the wire. -/
theorem decodeOf_encodeOf {c : Cfg} (hc : c.wellFormed = true) {p : Packet}
    (hp : p.canonical c = true) : decodeOf c (encodeOf c p) = p := by
  rw [decodeOf, encodeOf, invertFrame_invertFrame, decodeLogicalOf_encodeLogicalOf hc hp]

/-! The laws, as instructions. -/

theorem exec_encode (p : Packet) (s : State) :
    exec (.encode p) s =
      .next (withResult (.frame (encodeOf s.cfg p)) (withBuffer (encodeLogicalOf s.cfg p) s)) := rfl

theorem exec_decode (w : Frame) (s : State) :
    exec (.decode w) s =
      .next (withResult (.packet (decodeOf s.cfg w)) (withBuffer (invertFrame w) s)) := rfl

/-- Settles O1: the header by its bytes, the body because its fields determine it. -/
theorem decodeOfEncode : Obligations.DecodeOfEncode := by
  unfold Obligations.DecodeOfEncode
  intro s p hc hp
  refine ⟨_, _, exec_encode p s, ?_⟩
  intro t ht
  rw [exec_decode, ht, decodeOf_encodeOf hc hp]

/-- Settles O2: a decoded packet has the covered bits of its frame, and is canonical. -/
theorem encodeOfDecode : Obligations.EncodeOfDecode := by
  unfold Obligations.EncodeOfDecode
  intro c w hc
  constructor
  · rw [encodeOf, invertFrame_invertFrame, encodeLogicalOf_eq, decodeOf, frameFields_decode hc]
  · have hcanon : (decodeOf c w).canonical c = true := canonical_decodeLogicalOf c (invertFrame w)
    rw [decodeOf_encodeOf hc hcanon]

end Sys2Proof.Machine
end

section
/-! The received-frame rows (30_encoding.md R74, 41_codec_frames.md R130): a row is determined by its
packet and its common operands, and a well-formed row is read back from the frame that presents it. -/

namespace Sys2Proof

/-! A row from its parts. -/

/-- The row of a packet with the given common operands: by the body and the source role, and by the type
code where there is no body. -/
def rowOf (h : RxHead) (p : Packet) : Instr :=
  match p.body, p.src.role with
  | .config b, .indoorUnit => .configIU h b.common b.iu
  | .config b, .controller => .configC h b.common b.ctl
  | .error code, .indoorUnit => .errorIU h code
  | .error code, .controller => .errorC h code
  | .features f, .indoorUnit => .featuresIU h f
  | .features f, .controller => .featuresC h f
  | .function b, .indoorUnit => .functionIU h b
  | .function b, .controller => .functionC h b
  | .status, .indoorUnit => .statusIU h
  | .status, .controller => .statusC h
  | .zoneConfig b, .indoorUnit => .zoneConfigIU h b.zones
  | .zoneConfig b, .controller => .zoneConfigC h b.zones b.write
  | .zoneFunction b, .indoorUnit => .zoneFunctionIU h b
  | .zoneFunction _, .controller => .zoneFunctionC h
  | .none, role =>
    if p.typeCode = typeZoneConfig then .unknown5Legacy h role
    else if p.typeCode = typeZoneFunction then .unknown6Legacy h role
    else .unknown7 h role

/-- A received-frame row is the row of its parts. -/
theorem rowOf_of_received {i : Instr} {h : RxHead} {p : Packet} (hi : i.received = some (h, p)) :
    rowOf h p = i := by
  cases i <;> cases hi <;> rfl

/-- The packet of a received-frame row has the addresses among the row's common operands. -/
theorem packet_of_received {i : Instr} {h : RxHead} {p : Packet} (hi : i.received = some (h, p)) :
    p = h.packet p.src.role p.typeCode p.body := by
  cases i <;> cases hi <;> rfl

/-- Two rows with the same parts are one. -/
theorem received_injective {i j : Instr} {h : RxHead} {p : Packet}
    (hi : i.received = some (h, p)) (hj : j.received = some (h, p)) : i = j :=
  (rowOf_of_received hi).symm.trans (rowOf_of_received hj)

/-! The frame that presents a row. -/

theorem Frame.or_zero (f : Frame) : f.or Frame.zero = f := by
  simp [Frame.or, Frame.zero]

theorem Frame.zero_or (f : Frame) : Frame.zero.or f = f := by
  simp [Frame.or, Frame.zero]

theorem Frame.or_and (f g m : Frame) : (f.or g).and m = (f.and m).or (g.and m) := by
  simp only [Frame.or, Frame.and, BitVec.and_or_distrib_right]

/-- No bit is both covered and not. -/
theorem Frame.and_and_invert (f m : Frame) : (f.and m).and (invertFrame m) = Frame.zero := by
  simp [Frame.and, invertFrame, Frame.zero, BitVec.and_assoc]

theorem and_covered_of_ignoredOk {c : Cfg} {k : Kind} {m : Frame} (hm : ignoredOk c k m = true) :
    m.and (coveredBits c k) = Frame.zero :=
  eq_of_beq hm

/-- The covered bits of a row's frame are the fields of its packet. -/
theorem rawOf_and_covered {c : Cfg} {p : Packet} {m : Frame}
    (hm : ignoredOk c (packetKind c p) m = true) :
    (rawOf c p m).and (coveredBits c (packetKind c p)) = frameFields c p := by
  rw [rawOf, Frame.or_and, frameFields_covered, and_covered_of_ignoredOk hm, Frame.or_zero]

/-- The bits that no field covers are the row's ignored bits. -/
theorem ignoredBits_rawOf {c : Cfg} {p : Packet} {m : Frame}
    (hm : ignoredOk c (packetKind c p) m = true) :
    ignoredBits c (packetKind c p) (rawOf c p m) = m := by
  have hrest : m.and (invertFrame (coveredBits c (packetKind c p))) = m := by
    have hsplit := Frame.and_or_invert m (coveredBits c (packetKind c p))
    rwa [and_covered_of_ignoredOk hm, Frame.zero_or] at hsplit
  rw [ignoredBits, rawOf, Frame.or_and, ← frameFields_covered, Frame.and_and_invert, Frame.zero_or,
    hrest]

/-- A row's common operands are read back from a frame that decodes to its packet and has its ignored
bits. -/
theorem decodeHead_of_packet {c : Cfg} {k : Kind} {f : Frame} {h : RxHead} {role : Role}
    {code : BitVec 3} {body : Body} (hf : decodeLogicalOf c f = h.packet role code body)
    (hm : ignoredBits c k f = h.ignored) : decodeHead c k f h.last = h := by
  obtain ⟨srcAddr, tokRole, tokAddr, last, ignored⟩ := h
  have hsrc : getFieldOf hdrSourceAddress f = srcAddr.setWidth 8 :=
    congrArg (fun p => p.src.addr) hf
  have hrole : Role.ofBit ((getFieldOf hdrTokenType f).getLsbD 0) = tokRole :=
    congrArg (fun p => p.tok.role) hf
  have htok : getFieldOf hdrTokenAddress f = tokAddr.setWidth 8 :=
    congrArg (fun p => p.tok.addr) hf
  rw [decodeHead, hsrc, hrole, htok, hm]
  simp

theorem decodeBytes_bytes (c : Cfg) (w : Frame) (last : Bool) :
    decodeBytes c w.bytes last = .ok (decodeFrame c w last) := rfl

/-- Settles O3: the frame that presents a row decodes to the row's packet and common operands, so to
the row. -/
theorem frameRowsRoundTrip : Obligations.FrameRowsRoundTrip := by
  unfold Obligations.FrameRowsRoundTrip
  intro c i h p hc hi hwf
  rw [wellFormed_of_received hi, Bool.and_eq_true] at hwf
  obtain ⟨hcanon, hignored⟩ := hwf
  have hpacket : decodeLogicalOf c (rawOf c p h.ignored) = p :=
    Machine.decodeLogicalOf_of_covered hc hcanon (rawOf_and_covered hignored)
  have hhead : decodeHead c (packetKind c p) (rawOf c p h.ignored) h.last = h :=
    decodeHead_of_packet (hpacket.trans (packet_of_received hi)) (ignoredBits_rawOf hignored)
  have hrow := received_decodeLogicalFrame c (rawOf c p h.ignored) h.last
  rw [hpacket, hhead] at hrow
  have hdecode : decodeFrame c (invertFrame (rawOf c p h.ignored)) h.last = i := by
    rw [decodeFrame, invertFrame_invertFrame]
    exact received_injective hrow hi
  exact ⟨_, encode_of_received hi, hdecode, by rw [decodeBytes_bytes, hdecode]⟩

end Sys2Proof
end

section
/-! The transaction on a received-frame row in two parts: step 2 of the row on the state after step 1, and
steps 3 and 4 from there (42_fsm_rx.md R160, R195). -/

namespace Sys2Proof.Machine

/-- 42_fsm_rx.md R195: step 2 of a received-frame row. -/
def step2Of : Instr → State → State
  | .configIU _ common iu => onConfigIU common iu
  | .configC h common ctl => onConfigC h.srcAddr { common := common, ctl := ctl }
  | .errorIU _ code => onErrorIU code
  | .errorC _ _ => observeError
  | .featuresIU _ f => onFeaturesIU f
  | .functionIU _ b => onFunctionIU b
  | .zoneConfigIU _ z => onZoneConfigIU z
  | .zoneFunctionIU _ b => onZoneFunctionIU b
  | _ => onNothing

/-- A row is its own step 2 in the transaction. -/
theorem exec_eq_receiveRow {i : Instr} {h : RxHead} {p : Packet} (hi : i.received = some (h, p))
    (s : State) : exec i s = .next (receiveRow h p (step2Of i) s) := by
  cases i <;> cases hi <;> rfl

/-- The token destination of a row is that of its packet. -/
theorem tok_of_received {i : Instr} {h : RxHead} {p : Packet} (hi : i.received = some (h, p)) :
    p.tok = tokenOf h := by
  rw [packet_of_received hi]
  rfl

theorem step1Of_of_received {i : Instr} {h : RxHead} {p : Packet}
    (hi : i.received = some (h, p)) (s : State) :
    step1Of i s = afterStep1 (rawOf s.cfg p h.ignored) p.src.role s := by
  simp only [step1Of, hi]

/-- A received-frame row completes, with steps 3 and 4 after its step 2. -/
theorem exec_of_received {i : Instr} {h : RxHead} {p : Packet} (hi : i.received = some (h, p))
    (s : State) :
    exec i s = .next (closeFrame (tokenOf h) h.last (step2Of i (step1Of i s))) := by
  rw [exec_eq_receiveRow hi, receiveRow_eq h p _ s (tok_of_received hi), step1Of_of_received hi]

theorem closesFrom_of_received {i : Instr} {h : RxHead} {p : Packet}
    (hi : i.received = some (h, p)) (s : State) :
    closesFrom i s (step2Of i (step1Of i s)) :=
  ⟨h, p, hi, exec_of_received hi s⟩

/-- The dispatch on the packet of a row is the row's step 2; a zone row in the Legacy variant, which
DECODE makes no packet of, does nothing either way. -/
theorem dispatch_of_received {i : Instr} {h : RxHead} {p : Packet} (hi : i.received = some (h, p)) :
    dispatch p = step2Of i := by
  funext s
  cases i <;> cases hi
  case configC common ctl =>
    show onConfigC ((h.srcAddr.setWidth 8).setWidth 4) _ s = onConfigC h.srcAddr _ s
    simp
  case zoneConfigIU | zoneConfigC | zoneFunctionIU | zoneFunctionC | unknown5Legacy |
      unknown6Legacy =>
    cases hv : s.cfg.variant <;>
      simp [dispatch, packetKind, RxHead.packet, typeZoneConfig, typeZoneFunction, kindOf, hv,
        step2Of, onZoneConfigIU, onZoneFunctionIU, onNothing]
  all_goals rfl

/-- The row of a frame, under a well-formed configuration, is put together from the frame itself. -/
theorem rawOf_decodeFrame {c : Cfg} (hc : c.wellFormed = true) (f : Frame) (last : Bool) :
    rawOf c (decodeLogicalOf c f)
      (decodeHead c (packetKind c (decodeLogicalOf c f)) f last).ignored = f :=
  rawOf_decode hc f

/-- Settles O18: the row stands for the decoded packet, its logical frame is the frame received, and
the dispatch on the packet is the row's step 2. -/
theorem rxFrameIsItsRow : Obligations.RxFrameIsItsRow := by
  unfold Obligations.RxFrameIsItsRow
  intro s w last hc
  have hi := received_decodeLogicalFrame s.cfg (invertFrame w) last
  rw [decodeFrame, exec_eq_receiveRow hi, receiveRow, rawOf_decodeFrame hc,
    ← dispatch_of_received hi]
  rfl

/-! Step 1. -/

@[simp] theorem afterStep1_cfg (raw : Frame) (role : Role) (s : State) :
    (afterStep1 raw role s).cfg = s.cfg := by
  unfold afterStep1; split <;> rfl

@[simp] theorem afterStep1_work (raw : Frame) (role : Role) (s : State) :
    (afterStep1 raw role s).work = { Transients.idle with buf := raw } := by
  unfold afterStep1; split <;> rfl

/-- Outside `FindNextControllerRx` step 1 emits `RawRx` only (42_fsm_rx.md R163). -/
theorem afterStep1_of_stage_ne {s : State} (hs : s.S.stage ≠ .findNextControllerRx) (raw : Frame)
    (role : Role) : afterStep1 raw role s = afterStart raw s := by
  rw [afterStep1, if_neg hs]

/-- 42_fsm_rx.md R163: the registers after the first frame in `FindNextControllerRx`. -/
theorem afterStep1_S_of_stage_eq {s : State} (hs : s.S.stage = .findNextControllerRx) (raw : Frame)
    (role : Role) :
    (afterStep1 raw role s).S = { s.S with
      nextTok := if role = .controller then s.S.nextTok else .indoorUnit
      stage := if s.cfg.variant = .zoned ∧ s.S.features.zones = true then .zoneRequestActive
        else .complete } := by
  rw [afterStep1, if_pos hs]
  rfl

/-! Step 2 of a Config of the indoor unit (42_fsm_rx.md R164 to R167). -/

theorem detectFeatures_eq (flags : BitVec 2) (s : State) :
    detectFeatures flags s =
      if s.S.stage = .detectFeatureSupport then
        if flags = 2 then
          stageSet .findNextControllerTx { s with S := { s.S with features := s.cfg.defaultFeatures } }
        else stageSet .featureRequest s
      else s := rfl

/-- 42_fsm_rx.md R164, in a transaction in which no error flag was noted yet. -/
theorem noteErrorFlag_eq {s : State} (hs : s.work.errChanged = false) (e : Bool) :
    noteErrorFlag e s = { s with
      S := { s.S with lastError := e }
      work := { s.work with errChanged := decide (e ≠ s.S.lastError) } } := by
  unfold noteErrorFlag
  by_cases he : e = s.S.lastError
  · rw [if_neg (not_not.2 he), decide_eq_false (not_not.2 he), he, ← hs]
  · rw [if_pos he, decide_eq_true he]
    rfl

/-- 42_fsm_rx.md R164 and R165: the state `d` with the error flag noted and the record merged, over the
last error flag and the host-supplied fields of `s`. -/
def configNoted (common : ConfigCommon) (iu : IUSub) (s d : State) : State :=
  { d with
    S := { d.S with
      cur := { common := common, iu := iu, ctl := s.S.cur.ctl }
      lastError := iu.error }
    work := { d.work with
      errChanged := decide (iu.error ≠ s.S.lastError)
      pending := some (.configUpdate { common := common, iu := iu, ctl := s.S.cur.ctl }) } }

/-- 42_fsm_rx.md R164 to R167, in a transaction in which no error flag was noted yet. -/
theorem onConfigIU_eq {s : State} (hs : s.work.errChanged = false) (common : ConfigCommon)
    (iu : IUSub) :
    onConfigIU common iu s = configNoted common iu s (detectFeatures iu.unknownFlags s) := by
  have hd : (detectFeatures iu.unknownFlags s).work.errChanged = false ∧
      (detectFeatures iu.unknownFlags s).S.lastError = s.S.lastError ∧
      (detectFeatures iu.unknownFlags s).S.cur = s.S.cur := by
    rw [detectFeatures_eq]
    split
    · split <;> exact ⟨hs, rfl, rfl⟩
    · exact ⟨hs, rfl, rfl⟩
  obtain ⟨hwork, herror, hcur⟩ := hd
  rw [onConfigIU, noteErrorFlag_eq hwork, herror]
  simp only [configNoted, mergeConfig, State.withS, State.withWork, hcur]

/-- `configNoted` reads two registers of the state before. -/
theorem configNoted_congr {s s' : State} (hcur : s'.S.cur = s.S.cur)
    (herror : s'.S.lastError = s.S.lastError) (common : ConfigCommon) (iu : IUSub) (d : State) :
    configNoted common iu s' d = configNoted common iu s d := by
  rw [configNoted, hcur, herror]
  rfl

/-- Settles O19: step 2 of the three rows writes the transients named and no register. -/
theorem reportRows : Obligations.ReportRows := by
  unfold Obligations.ReportRows
  intro s h code b
  exact ⟨closesFrom_of_received rfl s, closesFrom_of_received rfl s, closesFrom_of_received rfl s⟩

/-- Step 1 neither enters nor leaves `DetectFeatureSupport`. -/
theorem afterStep1_detectFeatureSupport_iff (raw : Frame) (role : Role) (s : State) :
    (afterStep1 raw role s).S.stage = .detectFeatureSupport ↔ s.S.stage = .detectFeatureSupport := by
  by_cases hs : s.S.stage = .findNextControllerRx
  · rw [afterStep1_S_of_stage_eq hs, hs]
    simp only [reduceCtorEq, iff_false]
    split <;> simp
  · rw [afterStep1_of_stage_ne hs]
    rfl

/-- Step 1 leaves the device record and the last error flag. -/
theorem afterStep1_device (raw : Frame) (role : Role) (s : State) :
    (afterStep1 raw role s).S.cur = s.S.cur ∧
      (afterStep1 raw role s).S.lastError = s.S.lastError := by
  unfold afterStep1
  split <;> exact ⟨rfl, rfl⟩

/-- Settles O24: `onConfigIU_eq` on the state after step 1, which has the device record, the error flag
and the configuration of the state before, and is in `DetectFeatureSupport` where that is. -/
theorem configRow : Obligations.ConfigRow := by
  unfold Obligations.ConfigRow
  intro s h common iu
  have hclose : closesFrom (.configIU h common iu) s
      (onConfigIU common iu (step1Of (.configIU h common iu) s)) := closesFrom_of_received rfl s
  obtain ⟨raw, role, hd⟩ : ∃ raw role, step1Of (.configIU h common iu) s = afterStep1 raw role s :=
    ⟨_, _, rfl⟩
  obtain ⟨hcur, herror⟩ := afterStep1_device raw role s
  have hwork : (afterStep1 raw role s).work.errChanged = false := by rw [afterStep1_work]; rfl
  rw [hd] at hclose ⊢
  rw [onConfigIU_eq hwork, configNoted_congr hcur herror, detectFeatures_eq] at hclose
  simp only [afterStep1_cfg, afterStep1_detectFeatureSupport_iff] at hclose
  simp only [afterStep1_cfg]
  exact hclose

end Sys2Proof.Machine
end

section
/-! The bus turn (42_fsm_rx.md R178 to R192): what steps 3 and 4 make of the state after step 2, once for
every alternative of the reply. -/

namespace Sys2Proof.Machine

/-- 42_fsm_rx.md R183 to R190: the type code of an alternative. -/
def replyCode : Reply → BitVec 3
  | .featuresReq => typeFeatures
  | .zoneFunctionReq => typeZoneFunction
  | .zoneConfigReq => typeZoneConfig
  | .error => typeError
  | .zoneWrite => typeZoneConfig
  | .function => typeFunction
  | .config => typeConfig

/-- 42_fsm_rx.md R183 to R190: the body of an alternative. The empty queue, on which the Function reply
is not chosen, has none. -/
def replyBody (S : Session) : Reply → Body
  | .featuresReq => .features {}
  | .zoneFunctionReq => .zoneFunction {}
  | .zoneConfigReq => .zoneConfig {}
  | .error => .error 0
  | .zoneWrite => .zoneConfig { zones := mergedZones S, write := true }
  | .function => (S.funcq.head?.map Body.function).getD .none
  | .config => .config { common := mergedCommon S, ctl := mergedCtl S }

/-- 42_fsm_rx.md R183 to R191: the session registers that building an alternative leaves. -/
def replySession (c : Cfg) (S : Session) : Reply → Session
  | .zoneWrite => { S with zdirty := 0 }
  | .function => { S with funcq := S.funcq.tail }
  | .config => consumeDirty c.selfClearing S
  | _ => S

/-- A reply that is built and transmitted, and the end of the transaction. The Function reply needs
a queue to take its function from. -/
theorem rxEnd_transmit_buildReply {r : Reply} {a : State} (hr : r = .function → a.S.funcq ≠ []) :
    rxEnd (transmit (buildReply r a)) =
      afterReply a (replyPacket a (replyCode r) (replyBody a.S r)) (replySession a.cfg a.S r) := by
  cases r
  case function =>
    obtain ⟨f, rest, hq⟩ := List.exists_cons_of_ne_nil (hr rfl)
    simp only [buildReply, replyFunction, replyBody, replySession, hq]
    exact rxEnd_transmit_setReply a _ _ _
  case zoneWrite | config => exact rxEnd_transmit_setReply a _ _ _
  all_goals exact rxEnd_transmit_setReply' a _ _

/-- 42_fsm_rx.md R181, order 6: the Function reply is chosen where the queue is not empty. -/
theorem funcq_ne_nil_of_chooseReply {a : State} (h : chooseReply a = .function) :
    a.S.funcq ≠ [] := by
  unfold chooseReply at h
  split_ifs at h
  assumption

/-- The reply of the state in which it is chosen. -/
def replyOf (a : State) : Packet :=
  replyPacket a (replyCode (chooseReply a)) (replyBody a.S (chooseReply a))

/-- With the turn, the discovery action is followed by one reply and the notification. -/
theorem closeFrame_of_turn {tok : Address} {last : Bool} {b : State}
    (h : ownsTurn b.cfg tok last) :
    closeFrame tok last b =
      afterReply (atReply b) (replyOf (atReply b))
        (replySession b.cfg (atReply b).S (chooseReply (atReply b))) := by
  rw [closeFrame_turn h, atReply_withWork, ← atReply_cfg b]
  exact rxEnd_transmit_buildReply (r := chooseReply (atReply b))
    (a := (atReply b).withWork fun w => { w with turn := true }) funcq_ne_nil_of_chooseReply

/-- Without the turn, the notification is all. -/
theorem closeFrame_of_noTurn {tok : Address} {last : Bool} {b : State}
    (h : ¬ownsTurn b.cfg tok last) : closeFrame tok last b = afterNoTurn b := by
  rw [closeFrame_noTurn, rxEnd_withTurn]
  rw [← Bool.not_eq_true, givesTurn_iff]
  exact h

/-- 42_fsm_rx.md R180: the discovery action is taken in `FindNextControllerTx` only. -/
theorem atReply_of_stage_ne {b : State} (h : b.S.stage ≠ .findNextControllerTx) : atReply b = b := by
  rw [atReply, if_neg h]

theorem atReply_of_stage_eq {b : State} (h : b.S.stage = .findNextControllerTx) :
    atReply b = stageSet .findNextControllerRx { b with S := { b.S with nextTok := .controller } } := by
  rw [atReply, if_pos h]

/-- A stage with a request of its own is not `FindNextControllerTx`. -/
theorem atReply_of_requestStage {b : State} (h : requestStage b.S.stage) : atReply b = b := by
  apply atReply_of_stage_ne
  obtain h | h | h := h <;> rw [h] <;> decide

/-! The choice of the reply (42_fsm_rx.md R181). -/

/-- Orders 1 to 3. -/
theorem chooseReply_of_requestStage {a : State} :
    (a.S.stage = .featureRequest → chooseReply a = .featuresReq) ∧
      (a.S.stage = .zoneRequestEnabled → chooseReply a = .zoneFunctionReq) ∧
      (a.S.stage = .zoneRequestActive → chooseReply a = .zoneConfigReq) := by
  refine ⟨?_, ?_, ?_⟩ <;> intro h <;> rw [chooseReply, h] <;> rfl

/-- Orders 5 to 7: where no request and no Error reply is due. -/
theorem chooseReply_of_no_request {b : State} (hstage : ¬requestStage (atReply b).S.stage)
    (herror : ¬errorReplyDue b) :
    chooseReply (atReply b) =
      if b.S.zdirty ≠ 0 then .zoneWrite else if b.S.funcq ≠ [] then .function else .config := by
  simp only [requestStage, not_or] at hstage
  obtain ⟨hfeatures, henabled, hactive⟩ := hstage
  have hdue : errorDue (atReply b) = false := by
    rw [← Bool.not_eq_true, errorDue_iff, errorReplyDue, atReply_cfg, atReply_work]
    exact herror
  rw [chooseReply, if_neg hfeatures, if_neg henabled, if_neg hactive, hdue, atReply_S]
  rfl

/-- Settles O27: the stages of the requests come first in the choice, and the discovery action is not
taken in them. -/
theorem requestReplies : Obligations.RequestReplies := by
  unfold Obligations.RequestReplies
  intro b tok last hturn
  obtain ⟨hfeatures, henabled, hactive⟩ := chooseReply_of_requestStage (a := b)
  have hclose := closeFrame_of_turn hturn
  refine ⟨fun h => ?_, fun h => ?_, fun h => ?_⟩
  · rw [hclose, atReply_of_requestStage (.inl h), replyOf, hfeatures h]; rfl
  · rw [hclose, atReply_of_requestStage (.inr (.inl h)), replyOf, henabled h]; rfl
  · rw [hclose, atReply_of_requestStage (.inr (.inr h)), replyOf, hactive h]; rfl

/-- The zone record of a write does not depend on the discovery action. -/
theorem mergedZones_atReply (b : State) : mergedZones (atReply b).S = mergedZones b.S := by
  rw [atReply_S]
  rfl

/-- Settles O29: the zone write is order 5, and its record is `mergedZones`. -/
theorem zoneWriteReply : Obligations.ZoneWriteReply := by
  unfold Obligations.ZoneWriteReply
  intro b tok last hturn hstage herror hz
  have hchoose : chooseReply (atReply b) = .zoneWrite := by
    rw [chooseReply_of_no_request hstage herror, if_pos hz]
  refine ⟨mergedZones b.S, rfl, rfl, rfl, rfl, rfl, ?_⟩
  rw [closeFrame_of_turn hturn, replyOf, hchoose, replyBody, mergedZones_atReply]
  rfl

/-- Settles O30: the Function reply is order 6, and takes the head of the queue. -/
theorem functionReply : Obligations.FunctionReply := by
  unfold Obligations.FunctionReply
  intro b tok last f rest hturn hstage herror hz hq
  have hchoose : chooseReply (atReply b) = .function := by
    rw [chooseReply_of_no_request hstage herror, if_neg (not_not.2 hz), hq, if_pos (by simp)]
  have hqueue : (atReply b).S.funcq = f :: rest := by rw [atReply_S]; exact hq
  rw [closeFrame_of_turn hturn, replyOf, hchoose, replyBody, replySession, hqueue]
  rfl

end Sys2Proof.Machine
end

section
/-! Steps 1 and 2 and the discovery action write the trace by `StageChanged` events only, and nothing that
waits to be sent (42_fsm_rx.md R160 to R180). -/

namespace Sys2Proof.Machine

/-- A stage in which the negotiation of zones asks the indoor unit. -/
def zoneStage (st : Stage) : Prop := st = .zoneRequestEnabled ∨ st = .zoneRequestActive

/-- What the parts of a transaction before its reply can do: `t` is `s` with stages announced, a
notification deferred, and negotiated and reported registers written. -/
structure Advances (s t : State) : Prop where
  cfg : t.cfg = s.cfg
  ports : ∃ stages, t.ports = { s.ports with out := s.ports.out ++ stages } ∧
    ∀ o ∈ stages, Output.isStageChanged o = true
  pending : t.work.pending = s.work.pending ∨
    ∃ e, t.work.pending = some e ∧ Output.isDeferred (.evt e) = true
  hostFields : t.S.cur.ctl = s.S.cur.ctl
  chg : t.S.chg = s.S.chg
  dirty : t.S.dirty = s.S.dirty
  zchg : t.S.zchg = s.S.zchg
  zdirty : t.S.zdirty = s.S.zdirty
  funcq : t.S.funcq = s.S.funcq
  /-- A zone stage is entered in the Zoned variant only. -/
  zoned : zoneStage t.S.stage → zoneStage s.S.stage ∨ s.cfg.variant = .zoned

theorem Advances.refl (s : State) : Advances s s where
  cfg := rfl
  ports := ⟨[], by rw [List.append_nil], by simp⟩
  pending := .inl rfl
  hostFields := rfl
  chg := rfl
  dirty := rfl
  zchg := rfl
  zdirty := rfl
  funcq := rfl
  zoned := .inl

theorem Advances.trans {s t u : State} (hst : Advances s t) (htu : Advances t u) :
    Advances s u where
  cfg := htu.cfg.trans hst.cfg
  ports := by
    obtain ⟨l, hl, hlStages⟩ := hst.ports
    obtain ⟨m, hm, hmStages⟩ := htu.ports
    refine ⟨l ++ m, by rw [hm, hl, List.append_assoc], ?_⟩
    intro o ho
    exact (List.mem_append.1 ho).elim (hlStages o) (hmStages o)
  pending := htu.pending.elim (fun h => h ▸ hst.pending) .inr
  hostFields := htu.hostFields.trans hst.hostFields
  chg := htu.chg.trans hst.chg
  dirty := htu.dirty.trans hst.dirty
  zchg := htu.zchg.trans hst.zchg
  zdirty := htu.zdirty.trans hst.zdirty
  funcq := htu.funcq.trans hst.funcq
  zoned h := (htu.zoned h).elim hst.zoned fun hv => .inr (hst.cfg ▸ hv)

/-- The parts that an operation leaves which announces no stage and writes no register that waits: the
configuration, the ports, the host-supplied fields, what waits to be sent, and the stage. -/
def quietParts (s : State) : Cfg × Ports × CurCtl × Chg × BitVec 12 × ZoneFields × BitVec 5 ×
    List FunctionBody × Stage :=
  (s.cfg, s.ports, s.S.cur.ctl, s.S.chg, s.S.dirty, s.S.zchg, s.S.zdirty, s.S.funcq, s.S.stage)

theorem Advances.of_quiet {s t : State} (hparts : quietParts t = quietParts s)
    (hpending : t.work.pending = s.work.pending ∨
      ∃ e, t.work.pending = some e ∧ Output.isDeferred (.evt e) = true) : Advances s t := by
  simp only [quietParts, Prod.mk.injEq] at hparts
  obtain ⟨hcfg, hports, hctl, hchg, hdirty, hzchg, hzdirty, hfuncq, hstage⟩ := hparts
  refine ⟨hcfg, ⟨[], by rw [hports, List.append_nil], by simp⟩, hpending, hctl, hchg, hdirty,
    hzchg, hzdirty, hfuncq, ?_⟩
  rw [hstage]
  exact .inl

/-- A stage is announced; a zone stage in the Zoned variant. -/
theorem advances_stageSet {st : Stage} {s : State} (hst : zoneStage st → s.cfg.variant = .zoned) :
    Advances s (stageSet st s) := by
  refine ⟨rfl, ⟨_, rfl, ?_⟩, .inl rfl, rfl, rfl, rfl, rfl, rfl, rfl, fun h => .inr (hst h)⟩
  rintro o ho
  rw [List.mem_singleton.1 ho]
  rfl

theorem advances_stageSet_of_not_zoneStage {st : Stage} {s : State} (hst : ¬zoneStage st) :
    Advances s (stageSet st s) :=
  advances_stageSet fun h => absurd h hst

/-! Step 1. -/

/-- Of two stages, a zone stage is taken on a condition that asks for the Zoned variant. -/
theorem zoned_of_zoneStage_ite {p : Prop} [Decidable p] {s : State} {x y : Stage}
    (hp : p → s.cfg.variant = .zoned) (hy : ¬zoneStage y) (h : zoneStage (if p then x else y)) :
    s.cfg.variant = .zoned := by
  split at h
  · exact hp ‹_›
  · exact absurd h hy

theorem advances_afterStep1 (raw : Frame) (role : Role) (s : State) :
    Advances (afterStart raw s) (afterStep1 raw role s) := by
  unfold afterStep1
  split
  · refine Advances.trans (t := { afterStart raw s with
      S := { s.S with nextTok := if role = .controller then s.S.nextTok else .indoorUnit } })
      (.of_quiet rfl (.inl rfl)) (advances_stageSet ?_)
    exact zoned_of_zoneStage_ite (fun h => h.1) (by simp [zoneStage])
  · exact .refl _

/-! Step 2. -/

theorem advances_detectFeatures (flags : BitVec 2) (s : State) :
    Advances s (detectFeatures flags s) := by
  rw [detectFeatures_eq]
  split
  · split
    · exact Advances.trans
        (t := { s with S := { s.S with features := s.cfg.defaultFeatures } })
        (.of_quiet rfl (.inl rfl))
        (advances_stageSet_of_not_zoneStage (by simp [zoneStage]))
    · exact advances_stageSet_of_not_zoneStage (by simp [zoneStage])
  · exact .refl s

theorem advances_noteErrorFlag (e : Bool) (s : State) : Advances s (noteErrorFlag e s) := by
  unfold noteErrorFlag
  split
  · exact .of_quiet rfl (.inl rfl)
  · exact .refl s

theorem advances_onConfigIU (common : ConfigCommon) (iu : IUSub) (s : State) :
    Advances s (onConfigIU common iu s) :=
  ((advances_detectFeatures iu.unknownFlags s).trans (advances_noteErrorFlag iu.error _)).trans
    (.of_quiet rfl (.inr ⟨_, rfl, rfl⟩))

theorem advances_onFeaturesIU (f : Features) (s : State) : Advances s (onFeaturesIU f s) := by
  unfold onFeaturesIU
  split
  · refine Advances.trans (t := { s with S := { s.S with features := f } })
      (.of_quiet rfl (.inl rfl)) (advances_stageSet ?_)
    exact zoned_of_zoneStage_ite (fun h => ((zonesNegotiated_iff _ _).1 h).1) (by simp [zoneStage])
  · exact .refl s

theorem advances_onZoneFunctionIU (b : ZoneFunctionBody) (s : State) :
    Advances s (onZoneFunctionIU b s) := by
  unfold onZoneFunctionIU
  split
  · exact Advances.trans
      (t := { s with S := { s.S with zoneEnabled := b.enabledZones, zoneCommon := b.commonZone } })
      (.of_quiet rfl (.inl rfl))
      (advances_stageSet_of_not_zoneStage (by simp [zoneStage]))
  · exact .refl s

theorem advances_onZoneConfigIU (z : ZoneFields) (s : State) : Advances s (onZoneConfigIU z s) := by
  have hstored : Advances s
      (withPending (.zoneConfigUpdate z) { s with S := { s.S with zcur := z } }) :=
    .of_quiet rfl (.inr ⟨_, rfl, rfl⟩)
  unfold onZoneConfigIU
  split
  · show Advances s (if _ then _ else _)
    split
    · exact hstored.trans (advances_stageSet_of_not_zoneStage (by simp [zoneStage]))
    · exact hstored
  · exact .refl s

/-- Step 2 of every received-frame row. -/
theorem advances_step2Of (i : Instr) (s : State) : Advances s (step2Of i s) := by
  cases i
  case configIU common iu => exact advances_onConfigIU common iu s
  case featuresIU f => exact advances_onFeaturesIU f s
  case zoneConfigIU z => exact advances_onZoneConfigIU z s
  case zoneFunctionIU b => exact advances_onZoneFunctionIU b s
  case errorC => exact .of_quiet rfl (.inl rfl)
  case configC | errorIU | functionIU =>
    exact .of_quiet rfl (.inr ⟨_, rfl, rfl⟩)
  all_goals exact .refl s

/-! The discovery action. -/

theorem advances_atReply (b : State) : Advances b (atReply b) := by
  unfold atReply
  split
  · exact Advances.trans (t := { b with S := { b.S with nextTok := .controller } })
      (.of_quiet rfl (.inl rfl))
      (advances_stageSet_of_not_zoneStage (by simp [zoneStage]))
  · exact .refl b

end Sys2Proof.Machine
end

section
/-! The trace of a received frame (20_memory.md section 7, 42_fsm_rx.md R192 to R194): the order of its
outputs, and the frames among them. -/

namespace Sys2Proof.Machine

/-! The end of a transaction. -/

@[simp] theorem afterReply_cfg (a : State) (r : Packet) (S : Session) :
    (afterReply a r S).cfg = a.cfg := rfl

@[simp] theorem afterReply_S (a : State) (r : Packet) (S : Session) : (afterReply a r S).S = S := rfl

@[simp] theorem afterReply_work (a : State) (r : Packet) (S : Session) :
    (afterReply a r S).work = Transients.idle := rfl

@[simp] theorem afterReply_ports (a : State) (r : Packet) (S : Session) :
    (afterReply a r S).ports =
      { a.ports with out := a.ports.out ++ sent a.cfg r ++ notified a.work } := rfl

/-! The frames of a trace. -/

@[simp] theorem framesSent_nil : framesSent [] = [] := rfl

@[simp] theorem framesSent_append (l m : List Output) :
    framesSent (l ++ m) = framesSent l ++ framesSent m :=
  List.filterMap_append

@[simp] theorem framesSent_cons_evt (e : Event) (l : List Output) :
    framesSent (.evt e :: l) = framesSent l := rfl

@[simp] theorem framesSent_cons_tx (w : Frame) (l : List Output) :
    framesSent (.tx w.toPort :: l) = w :: framesSent l := by
  show Frame.ofPort w.toPort :: framesSent l = _
  rw [Frame.ofPort_toPort]

@[simp] theorem framesSent_sent (c : Cfg) (r : Packet) :
    framesSent (sent c r) = [encodeOf c r] := by
  simp [sent]

@[simp] theorem framesSent_notified (w : Transients) : framesSent (notified w) = [] := by
  unfold notified
  split <;> rfl

theorem framesSent_of_isStageChanged {l : List Output}
    (h : ∀ o ∈ l, Output.isStageChanged o = true) : framesSent l = [] := by
  induction l with
  | nil => rfl
  | cons o l ih =>
    obtain ⟨ho, hl⟩ := List.forall_mem_cons.1 h
    cases o with
    | evt e => exact ih hl
    | tx d => cases ho
    | cmdAccept b => cases ho

/-- Settles O26: without the turn `closeFrame` is `afterNoTurn`; with it the discovery action
announces stages only, one reply is sent, and the notification is an event. -/
theorem turnCondition : Obligations.TurnCondition := by
  unfold Obligations.TurnCondition
  intro b tok last
  refine ⟨closeFrame_of_noTurn, fun h => ⟨encodeOf b.cfg (replyOf (atReply b)), ?_⟩⟩
  obtain ⟨stages, hports, hstages⟩ := (advances_atReply b).ports
  rw [closeFrame_of_turn h, afterReply_ports, hports]
  simp [framesSent_of_isStageChanged hstages]

/-! The outputs in order. -/

/-- Building a reply writes what waits to be sent, and of the pending values the momentary ones only
(42_fsm_rx.md R187 to R191). -/
theorem replySession_eq (c : Cfg) (S : Session) (r : Reply) :
    ∃ g d zd q, replySession c S r = { S with chg := g, dirty := d, zdirty := zd, funcq := q } ∧
      g.common = S.chg.common := by
  cases r
  case config =>
    obtain ⟨g, d, hS, hcommon, _⟩ := consumeDirty_eq c.selfClearing S
    exact ⟨g, d, S.zdirty, S.funcq, hS, hcommon⟩
  all_goals exact ⟨S.chg, S.dirty, _, _, rfl, rfl⟩

/-- The deferred notification of a transaction that had none at its start. -/
theorem notified_of_advances {s t : State} (h : Advances s t) (hs : s.work.pending = none) :
    notified t.work = [] ∨ ∃ o, notified t.work = [o] ∧ Output.isDeferred o = true := by
  unfold notified
  obtain hp | ⟨e, hp, he⟩ := h.pending
  · rw [hp, hs]; exact .inl rfl
  · rw [hp]; exact .inr ⟨_, rfl, he⟩

/-- Steps 1 and 2 of a received-frame row, from its `RawRx`. -/
theorem advances_steps12 {i : Instr} {h : RxHead} {p : Packet} (hi : i.received = some (h, p))
    (s : State) :
    Advances (afterStart (rawOf s.cfg p h.ignored) s) (step2Of i (step1Of i s)) := by
  rw [step1Of_of_received hi]
  exact (advances_afterStep1 _ _ s).trans (advances_step2Of i _)

/-- What a received-frame row can do: from a state that steps 1 and 2 lead to, the end without the turn,
or, from a state that the discovery action leads to, one reply. -/
theorem exec_received_cases {i : Instr} {h : RxHead} {p : Packet} (hi : i.received = some (h, p))
    (s : State) :
    (¬ownsTurn s.cfg (tokenOf h) h.last ∧
      ∃ b, Advances (afterStart (rawOf s.cfg p h.ignored) s) b ∧
        exec i s = .next (afterNoTurn b)) ∨
    (ownsTurn s.cfg (tokenOf h) h.last ∧
      ∃ a g d zd q, Advances (afterStart (rawOf s.cfg p h.ignored) s) a ∧
        g.common = a.S.chg.common ∧
        exec i s = .next (afterReply a (replyOf a)
          { a.S with chg := g, dirty := d, zdirty := zd, funcq := q })) := by
  have hb := advances_steps12 hi s
  have hexec := exec_of_received hi s
  generalize step2Of i (step1Of i s) = b at hb hexec
  have hcfg : b.cfg = s.cfg := hb.cfg
  by_cases hturn : ownsTurn s.cfg (tokenOf h) h.last
  · rw [closeFrame_of_turn (hcfg ▸ hturn)] at hexec
    obtain ⟨g, d, zd, q, hS, hcommon⟩ :=
      replySession_eq b.cfg (atReply b).S (chooseReply (atReply b))
    rw [hS] at hexec
    exact .inr ⟨hturn, _, g, d, zd, q, hb.trans (advances_atReply b), hcommon, hexec⟩
  · rw [closeFrame_of_noTurn (hcfg ▸ hturn)] at hexec
    exact .inl ⟨hturn, b, hb, hexec⟩

/-- Settles O33: the trace is that of `Advances`, closed with or without the turn. -/
theorem outputOrder : Obligations.OutputOrder := by
  unfold Obligations.OutputOrder
  intro s i h p hi
  obtain ⟨hturn, b, hb, hexec⟩ | ⟨hturn, a, g, d, zd, q, ha, hcommon, hexec⟩ :=
    exec_received_cases hi s
  · obtain ⟨stages, hports, hstages⟩ := hb.ports
    refine ⟨_, stages, [], notified b.work, hexec, ?_, hstages, fun _ => rfl,
      fun hown => absurd hown hturn, notified_of_advances hb rfl, hb.cfg, rfl, ?_, ?_, ?_,
      hb.hostFields, hb.zchg, by rw [afterNoTurn_S, hb.chg]; rfl⟩
    all_goals simp [hports]
  · obtain ⟨stages, hports, hstages⟩ := ha.ports
    refine ⟨_, stages, sent a.cfg (replyOf a), notified a.work, hexec, ?_, hstages,
      absurd hturn, fun _ => ⟨_, rfl⟩, notified_of_advances ha rfl, ha.cfg, rfl, ?_, ?_, ?_,
      ha.hostFields, ha.zchg, hcommon.trans (by rw [ha.chg]; rfl)⟩
    all_goals simp [hports]

/-! The header of a frame that is sent (42_fsm_rx.md R179). -/

/-- An address as the header holds it: its number cut to 4 bits (40_codec_primitives.md R117 item 2). -/
def onWire (a : Address) : Address := ⟨a.role, (a.addr.setWidth 4).setWidth 8⟩

/-- A header byte that holds an address decodes to it, the number cut. -/
theorem decodeAddress_onWire {k : Nat} {f : Frame} {a : Address}
    (hbyte : f.lane k &&& 0x2F = addressByte a) :
    decodeAddress ⟨k, 0x20, 5⟩ ⟨k, 0x0F, 0⟩ f = onWire a := by
  obtain ⟨hrole, haddr⟩ := address_of_byte hbyte
  have hr : (decodeAddress ⟨k, 0x20, 5⟩ ⟨k, 0x0F, 0⟩ f).role = a.role :=
    role_eq_of_controller_iff ((decodeAddress_role_iff _ rfl rfl f).trans hrole)
  have hn : getFieldOf ⟨k, 0x0F, 0⟩ f = (a.addr.setWidth 4).setWidth 8 := by
    rw [getFieldOf_addrBits rfl rfl, haddr]
  rw [onWire, ← hr, ← hn]
  rfl

/-- The header of an encoded packet, whatever its body, reads back. -/
theorem decodeOf_encodeOf_header {c : Cfg} (hc : c.wellFormed = true) (r : Packet) :
    (decodeOf c (encodeOf c r)).src = onWire r.src ∧
      (decodeOf c (encodeOf c r)).tok = onWire r.tok ∧
      (decodeOf c (encodeOf c r)).typeCode = r.typeCode := by
  have hheader := encodeLogicalOf_and_headerBits hc r
  rw [decodeOf, encodeOf, invertFrame_invertFrame]
  exact ⟨decodeAddress_onWire ((hheader 0).trans (headerFrame_lane_source r)),
    decodeAddress_onWire ((hheader 1).trans (headerFrame_lane_token r)),
    (decodeType_eq _).trans (typeCode_of_byte ((hheader 2).trans (headerFrame_lane r 2)))⟩

theorem packetKind_decodeOf_encodeOf {c : Cfg} (hc : c.wellFormed = true) (r : Packet) :
    packetKind c (decodeOf c (encodeOf c r)) = packetKind c r := by
  obtain ⟨hsrc, _, hcode⟩ := decodeOf_encodeOf_header hc r
  rw [packetKind, hsrc, hcode]
  rfl

/-- An address of the block's own width is held whole. -/
theorem onWire_addr (role : Role) (a : Addr) :
    onWire ⟨role, a.setWidth 8⟩ = ⟨role, a.setWidth 8⟩ := by
  simp [onWire]

/-- The neighbour's address wraps from 15 to 0 (92_eei_decisions.md D29). -/
theorem onWire_neighbour (role : Role) (a : Addr) :
    onWire ⟨role, a.setWidth 8 + 1⟩ = ⟨role, (a + 1).setWidth 8⟩ := by
  rw [onWire, Address.mk.injEq]
  refine ⟨rfl, ?_⟩
  show ((a.setWidth 8 + 1).setWidth 4).setWidth 8 = (a + 1).setWidth 8
  revert a
  decide

/-- Settles O32: the discovery action sets the next token destination before the reply is built, and
the header of the reply reads back with the neighbour's number cut to 4 bits. -/
theorem discoveryTurn : Obligations.DiscoveryTurn := by
  unfold Obligations.DiscoveryTurn
  intro b tok last hc hturn hstage
  have ha := atReply_of_stage_eq hstage
  have hclose := closeFrame_of_turn hturn
  generalize hr : replyOf (atReply b) = r at hclose
  obtain ⟨g, d, zd, q, hS, _⟩ := replySession_eq b.cfg (atReply b).S (chooseReply (atReply b))
  rw [hS] at hclose
  obtain ⟨hsrc, htok, _⟩ := decodeOf_encodeOf_header hc r
  refine ⟨encodeOf b.cfg r, .evt (.rawTx (encodeLogicalOf b.cfg r)) :: notified b.work, ?_, ?_, ?_,
    ?_, ?_⟩
  · rw [hclose, ha]; rfl
  · rw [hclose, ha]; rfl
  · rw [hclose, ha]; simp [sent]
  · rw [hsrc, ← hr, ha]; exact onWire_addr _ _
  · rw [htok, ← hr, ha]; exact onWire_neighbour _ _

end Sys2Proof.Machine
end

section
/-! The frames that a step sends (42_fsm_rx.md R178, R182): a command sends none, a received frame at most
one, of a kind that the block may send. -/

namespace Sys2Proof.Machine

/-! Host commands. -/

/-- The trace grew from `s` to `t` by no frame. -/
def SendsNothing (s t : State) : Prop :=
  ∃ outs, t.ports.out = s.ports.out ++ outs ∧ framesSent outs = []

theorem SendsNothing.of_ports_eq {s t : State} (h : t.ports = s.ports) : SendsNothing s t :=
  ⟨[], by rw [h, List.append_nil], rfl⟩

/-- A command sends a frame only where its update does. -/
theorem sendsNothing_finishCommand {cause : Option RejectCause} {u : State → State} {s : State}
    (hu : SendsNothing s (u s)) : SendsNothing s (finishCommand cause u s) := by
  rw [finishCommand_eq]
  split
  · obtain ⟨outs, hout, hnone⟩ := hu
    exact ⟨outs ++ [.cmdAccept true], by rw [answered_ports, hout, List.append_assoc],
      by rw [framesSent_append, hnone]; rfl⟩
  · exact ⟨[.cmdAccept false], rfl, rfl⟩

/-- 42_fsm_rx.md R182: no command word makes the block send; REINIT alone emits an event. -/
theorem sendsNothing_decodeCmd (w : BitVec 32) (s : State) :
    ∃ t, exec (decodeCmd w) s = .next t ∧ SendsNothing s t := by
  apply decodeCmd_induction (P := fun i => ∃ t, exec i s = .next t ∧ SendsNothing s t)
  case reinit =>
    intro o
    exact ⟨_, rfl, sendsNothing_finishCommand ⟨_, rfl, rfl⟩⟩
  all_goals
    intros
    exact ⟨_, rfl, sendsNothing_finishCommand (.of_ports_eq rfl)⟩

/-! Received frames. -/

/-- The kinds that the block may send (42_fsm_rx.md R183 to R190). -/
def sentKinds : List Kind :=
  [.configC, .error, .features, .function, .zoneConfigC, .zoneFunctionC]

/-- What calls for a zone packet is there in the Zoned variant only. -/
def ZonesOnlyZoned (s : State) : Prop :=
  zoneStage s.S.stage ∨ s.S.zdirty ≠ 0 → s.cfg.variant = .zoned

theorem ZonesOnlyZoned.advances {s t : State} (hs : ZonesOnlyZoned s) (h : Advances s t) :
    ZonesOnlyZoned t := by
  rintro (hstage | hdirty) <;> rw [h.cfg]
  · exact (h.zoned hstage).elim (fun hz => hs (.inl hz)) id
  · rw [h.zdirty] at hdirty
    exact hs (.inr hdirty)

theorem zonesOnlyZoned_of_inv {s : State} (h : Inv s) : ZonesOnlyZoned s := by
  rintro (hstage | hdirty)
  · exact (h.session.zoneStage hstage).1
  · by_contra hv
    have hlegacy : s.cfg.variant = .legacy := by
      cases hx : s.cfg.variant with
      | legacy => rfl
      | zoned => exact absurd hx hv
    obtain ⟨_, _, _, hzdirty, _, _⟩ := h.session.legacy hlegacy
    exact hdirty hzdirty

/-- The kind of the reply, along the choice of 42_fsm_rx.md R181. -/
theorem packetKind_replyOf {a : State} (ha : ZonesOnlyZoned a) :
    packetKind a.cfg (replyOf a) ∈ sentKinds := by
  show kindOf a.cfg.variant (replyCode (chooseReply a)) .controller ∈ sentKinds
  unfold chooseReply
  split_ifs with _ henabled hactive _ hzdirty
  · exact (by decide : Kind.features ∈ sentKinds)
  · rw [ha (.inl (.inl henabled))]; decide
  · rw [ha (.inl (.inr hactive))]; decide
  · exact (by decide : Kind.error ∈ sentKinds)
  · rw [ha (.inr hzdirty)]; decide
  · exact (by decide : Kind.function ∈ sentKinds)
  · exact (by decide : Kind.configC ∈ sentKinds)

/-- `w` is a frame of this block, of a kind that it may send. -/
def OwnFrame (c : Cfg) (w : Frame) : Prop :=
  (decodeOf c w).src = ⟨.controller, c.ctrlAddr.setWidth 8⟩ ∧
    packetKind c (decodeOf c w) ∈ sentKinds

theorem ownFrame_replyOf {a : State} (hc : a.cfg.wellFormed = true) (ha : ZonesOnlyZoned a) :
    OwnFrame a.cfg (encodeOf a.cfg (replyOf a)) := by
  obtain ⟨hsrc, _, _⟩ := decodeOf_encodeOf_header hc (replyOf a)
  refine ⟨hsrc.trans (onWire_addr _ _), ?_⟩
  rw [packetKind_decodeOf_encodeOf hc]
  exact packetKind_replyOf ha

/-- A received-frame row sends nothing, or has the turn and sends one frame of this block. -/
theorem sends_of_received {i : Instr} {h : RxHead} {p : Packet} (hi : i.received = some (h, p))
    {s : State} (hc : s.cfg.wellFormed = true) (hs : ZonesOnlyZoned s) :
    ∃ t outs, exec i s = .next t ∧ t.ports.out = s.ports.out ++ outs ∧
      (framesSent outs = [] ∨
        ∃ w, framesSent outs = [w] ∧ ownsTurn s.cfg p.tok h.last ∧ OwnFrame s.cfg w) := by
  rw [tok_of_received hi]
  obtain ⟨_, b, hb, hexec⟩ | ⟨hturn, a, _, _, _, _, ha, _, hexec⟩ := exec_received_cases hi s
  · obtain ⟨stages, hports, hstages⟩ := hb.ports
    refine ⟨_, .evt (.rawRx (rawOf s.cfg p h.ignored)) :: (stages ++ notified b.work), hexec,
      by simp [hports], .inl ?_⟩
    simp [framesSent_of_isStageChanged hstages]
  · have hcfg : a.cfg = s.cfg := ha.cfg
    have hzones : ZonesOnlyZoned a := ZonesOnlyZoned.advances (s := afterStart _ s) hs ha
    obtain ⟨stages, hports, hstages⟩ := ha.ports
    refine ⟨_, .evt (.rawRx (rawOf s.cfg p h.ignored)) ::
        (stages ++ sent a.cfg (replyOf a) ++ notified a.work), hexec, by simp [hports],
      .inr ⟨encodeOf a.cfg (replyOf a), ?_, hturn, hcfg ▸ ownFrame_replyOf (hcfg ▸ hc) hzones⟩⟩
    simp [framesSent_of_isStageChanged hstages]

/-- Settles O35: by what the step takes: a frame, a command or nothing. -/
theorem oneReplyPerTurn : Obligations.OneReplyPerTurn := by
  unfold Obligations.OneReplyPerTurn
  intro s t hinv hrst hstep
  cases hrx : s.ports.rx with
  | cons item rest =>
    rw [step_of_fetch_some hrst (fetch_of_rx_cons hrx)] at hstep
    obtain ⟨t', outs, hexec, hout, hsent⟩ :=
      sends_of_received (received_decodeLogicalFrame s.cfg _ item.last)
        (s := { s with ports := { s.ports with rx := rest } }) hinv.config
        (show ZonesOnlyZoned s from zonesOnlyZoned_of_inv hinv)
    cases hstep.symm.trans hexec
    refine ⟨outs, hout, hsent.imp_right ?_⟩
    rintro ⟨w, hw, hturn, hsrc, hkind⟩
    exact ⟨w, item, rest, hw, rfl, hturn, hsrc, hkind⟩
  | nil =>
    have hnothing : SendsNothing s t := by
      cases hcmd : s.ports.cmd with
      | cons w rest =>
        rw [step_of_fetch_some hrst (fetch_of_rx_nil_of_cmd_cons hrx hcmd)] at hstep
        obtain ⟨t', hexec, hsent⟩ :=
          sendsNothing_decodeCmd w { s with ports := { s.ports with cmd := rest } }
        cases hstep.symm.trans hexec
        exact hsent
      | nil =>
        rw [step_of_fetch_none hrst (fetch_of_rx_nil_of_cmd_nil hrx hcmd)] at hstep
        cases hstep
        exact .of_ports_eq rfl
    obtain ⟨outs, hout, hnone⟩ := hnothing
    exact ⟨outs, hout, .inl hnone⟩

end Sys2Proof.Machine
end

section
/-! The negotiation (10_state.md R22, 42_fsm_rx.md section 6): what each row makes of the stage and the
registers of the negotiation, and the paths to `Complete`. -/

namespace Sys2Proof.Machine

/-! Steps 3 and 4. -/

/-- `T` is `S` but for the registers that hold what waits to be sent. -/
def SameButWaiting (S T : Session) : Prop :=
  ∃ g d zd q, T = { S with chg := g, dirty := d, zdirty := zd, funcq := q }

theorem closeFrame_cfg (tok : Address) (last : Bool) (b : State) :
    (closeFrame tok last b).cfg = b.cfg := by
  by_cases hturn : ownsTurn b.cfg tok last
  · rw [closeFrame_of_turn hturn, afterReply_cfg, atReply_cfg]
  · rw [closeFrame_of_noTurn hturn, afterNoTurn_cfg]

theorem closeFrame_S_of_turn {tok : Address} {last : Bool} {b : State}
    (hturn : ownsTurn b.cfg tok last) :
    SameButWaiting (atReply b).S (closeFrame tok last b).S := by
  obtain ⟨g, d, zd, q, hS, _⟩ := replySession_eq b.cfg (atReply b).S (chooseReply (atReply b))
  exact ⟨g, d, zd, q, by rw [closeFrame_of_turn hturn, afterReply_S, hS]⟩

/-- Outside `FindNextControllerTx` steps 3 and 4 leave the negotiation, with the turn or without. -/
theorem closeFrame_S_of_stage_ne {b : State} (hstage : b.S.stage ≠ .findNextControllerTx)
    (tok : Address) (last : Bool) : SameButWaiting b.S (closeFrame tok last b).S := by
  by_cases hturn : ownsTurn b.cfg tok last
  · have hS := closeFrame_S_of_turn hturn
    rwa [atReply_of_stage_ne hstage] at hS
  · rw [closeFrame_of_noTurn hturn]
    exact ⟨b.S.chg, b.S.dirty, b.S.zdirty, b.S.funcq, rfl⟩

/-- In a stage with a request of its own, steps 3 and 4 leave every register. -/
theorem closeFrame_S_of_requestStage {b : State} (hstage : requestStage b.S.stage) (tok : Address)
    (last : Bool) : (closeFrame tok last b).S = b.S := by
  by_cases hturn : ownsTurn b.cfg tok last
  · obtain ⟨hfeatures, henabled, hactive⟩ := requestReplies b tok last hturn
    obtain h | h | h := hstage
    · rw [hfeatures h, afterReply_S]
    · rw [henabled h, afterReply_S]
    · rw [hactive h, afterReply_S]
  · rw [closeFrame_of_noTurn hturn, afterNoTurn_S]

/-! Step 2. -/

theorem noteErrorFlag_S (e : Bool) (s : State) :
    (noteErrorFlag e s).S = { s.S with lastError := e } := by
  unfold noteErrorFlag
  split
  · rfl
  · rename_i h
    rw [not_not.1 h]

/-- A Config of the indoor unit writes the device registers beside the feature detection. -/
theorem onConfigIU_S (common : ConfigCommon) (iu : IUSub) (s : State) :
    ∃ cur, (onConfigIU common iu s).S =
      { (detectFeatures iu.unknownFlags s).S with cur := cur, lastError := iu.error } := by
  refine ⟨⟨common, iu, (detectFeatures iu.unknownFlags s).S.cur.ctl⟩, ?_⟩
  rw [onConfigIU, mergeConfig]
  simp only [State.withWork_S, State.withS_S, noteErrorFlag_S]

theorem detectFeatures_of_stage_ne {s : State} (hs : s.S.stage ≠ .detectFeatureSupport)
    (flags : BitVec 2) : detectFeatures flags s = s := by
  rw [detectFeatures_eq, if_neg hs]

theorem detectFeatures_S_of_stage_eq {s : State} (hs : s.S.stage = .detectFeatureSupport)
    (flags : BitVec 2) :
    (detectFeatures flags s).S =
      if flags = 2 then
        { s.S with features := s.cfg.defaultFeatures, stage := .findNextControllerTx }
      else { s.S with stage := .featureRequest } := by
  rw [detectFeatures_eq, if_pos hs]
  split <;> rfl

theorem onFeaturesIU_of_stage_ne {s : State} (hs : s.S.stage ≠ .featureRequest) (f : Features) :
    onFeaturesIU f s = s := by
  rw [onFeaturesIU, if_neg hs]

theorem onFeaturesIU_S_of_stage_eq {s : State} (hs : s.S.stage = .featureRequest) (f : Features) :
    (onFeaturesIU f s).S = { s.S with
      features := f
      stage := if zonesNegotiated s.cfg f then .zoneRequestEnabled else .findNextControllerTx } := by
  rw [onFeaturesIU, if_pos hs]
  rfl

theorem onZoneFunctionIU_of_stage_ne {s : State} (hs : s.S.stage ≠ .zoneRequestEnabled)
    (b : ZoneFunctionBody) : onZoneFunctionIU b s = s := by
  rw [onZoneFunctionIU, if_neg fun h => hs h.2]

theorem onZoneFunctionIU_S_of_stage_eq {s : State} (hv : s.cfg.variant = .zoned)
    (hs : s.S.stage = .zoneRequestEnabled) (b : ZoneFunctionBody) :
    (onZoneFunctionIU b s).S = { s.S with
      zoneEnabled := b.enabledZones
      zoneCommon := b.commonZone
      stage := .findNextControllerTx } := by
  rw [onZoneFunctionIU, if_pos ⟨hv, hs⟩]
  rfl

/-- A zone record is stored in every stage (42_fsm_rx.md R174). -/
theorem onZoneConfigIU_S_of_stage_ne {s : State} (hs : s.S.stage ≠ .zoneRequestActive)
    (z : ZoneFields) : ∃ zcur, (onZoneConfigIU z s).S = { s.S with zcur := zcur } := by
  unfold onZoneConfigIU
  split
  · exact ⟨z, congrArg State.S (if_neg hs)⟩
  · exact ⟨s.S.zcur, rfl⟩

theorem onZoneConfigIU_S_of_stage_eq {s : State} (hv : s.cfg.variant = .zoned)
    (hs : s.S.stage = .zoneRequestActive) (z : ZoneFields) :
    (onZoneConfigIU z s).S = { s.S with zcur := z, stage := .complete } := by
  rw [onZoneConfigIU, if_pos hv]
  exact congrArg State.S (if_pos hs)

/-! A request stage is left by its answer only. -/

/-- Step 2 of a row other than the awaited answer leaves the negotiation. -/
theorem step2Of_of_requestStage {i : Instr} {s : State} (hs : requestStage s.S.stage)
    (hfeatures : ∀ h f, s.S.stage = .featureRequest → i ≠ .featuresIU h f)
    (henabled : ∀ h b, s.S.stage = .zoneRequestEnabled → i ≠ .zoneFunctionIU h b)
    (hactive : ∀ h z, s.S.stage = .zoneRequestActive → i ≠ .zoneConfigIU h z) :
    (step2Of i s).S.stage = s.S.stage ∧ (step2Of i s).S.nextTok = s.S.nextTok ∧
      (step2Of i s).S.features = s.S.features := by
  have hdetect : s.S.stage ≠ .detectFeatureSupport := by
    obtain h | h | h := hs <;> rw [h] <;> decide
  cases i
  case configIU h common iu =>
    obtain ⟨cur, hS⟩ := onConfigIU_S common iu s
    rw [detectFeatures_of_stage_ne hdetect] at hS
    rw [step2Of, hS]
    exact ⟨rfl, rfl, rfl⟩
  case featuresIU h f =>
    rw [step2Of, onFeaturesIU_of_stage_ne fun hstage => hfeatures h f hstage rfl]
    exact ⟨rfl, rfl, rfl⟩
  case zoneFunctionIU h b =>
    rw [step2Of, onZoneFunctionIU_of_stage_ne fun hstage => henabled h b hstage rfl]
    exact ⟨rfl, rfl, rfl⟩
  case zoneConfigIU h z =>
    obtain ⟨zcur, hS⟩ := onZoneConfigIU_S_of_stage_ne (fun hstage => hactive h z hstage rfl) z
    rw [step2Of, hS]
    exact ⟨rfl, rfl, rfl⟩
  all_goals exact ⟨rfl, rfl, rfl⟩

/-- Settles O39: step 1 and steps 3 and 4 leave every register in a request stage, and step 2 those of
the negotiation and those that wait. -/
theorem requestsWait : Obligations.RequestsWait := by
  unfold Obligations.RequestsWait
  intro s i h p hi hs hfeatures henabled hactive
  have hrx : s.S.stage ≠ .findNextControllerRx := by
    obtain h | h | h := hs <;> rw [h] <;> decide
  have hstep1 := step1Of_of_received hi s
  rw [afterStep1_of_stage_ne hrx] at hstep1
  obtain ⟨hstage, htok, hfeats⟩ :=
    step2Of_of_requestStage (i := i) (s := step1Of i s) (by rw [hstep1]; exact hs)
      (by rw [hstep1]; exact hfeatures) (by rw [hstep1]; exact henabled)
      (by rw [hstep1]; exact hactive)
  have hadv := advances_step2Of i (step1Of i s)
  have hexec := exec_of_received hi s
  generalize step2Of i (step1Of i s) = b at *
  rw [hstep1] at hstage htok hfeats hadv
  have hS : (closeFrame (tokenOf h) h.last b).S = b.S :=
    closeFrame_S_of_requestStage (by rw [hstage]; exact hs) _ _
  refine ⟨_, hexec, ?_⟩
  rw [hS]
  exact ⟨hstage, hadv.dirty, hadv.chg, hadv.zdirty, hadv.funcq, htok, hfeats⟩

end Sys2Proof.Machine
end

section
/-! The paths to `Complete` (42_fsm_rx.md section 6): the frames of the indoor unit that lead from stage to
stage, one lemma each. -/

namespace Sys2Proof.Machine

/-! A row in two parts. -/

/-- A row whose step 2 ends outside `FindNextControllerTx` leaves the registers of its step 2, but for what
waits, with the turn or without. -/
theorem exec_row {i : Instr} {h : RxHead} {p : Packet} (hi : i.received = some (h, p)) (s : State)
    (hstage : (step2Of i (step1Of i s)).S.stage ≠ .findNextControllerTx) :
    ∃ t, exec i s = .next t ∧ t.cfg = s.cfg ∧ SameButWaiting (step2Of i (step1Of i s)).S t.S := by
  refine ⟨_, exec_of_received hi s, ?_, closeFrame_S_of_stage_ne hstage _ _⟩
  rw [closeFrame_cfg]
  exact (advances_steps12 hi s).cfg

/-- A row that reaches `FindNextControllerTx` with the turn probes the neighbour at once. -/
theorem exec_row_of_discovery {i : Instr} {h : RxHead} {p : Packet}
    (hi : i.received = some (h, p)) (s : State) (hturn : ownsTurn s.cfg (tokenOf h) h.last)
    (hstage : (step2Of i (step1Of i s)).S.stage = .findNextControllerTx) :
    ∃ t, exec i s = .next t ∧ t.cfg = s.cfg ∧ SameButWaiting
      { (step2Of i (step1Of i s)).S with nextTok := .controller, stage := .findNextControllerRx }
      t.S := by
  have hcfg : (step2Of i (step1Of i s)).cfg = s.cfg := (advances_steps12 hi s).cfg
  have hS := closeFrame_S_of_turn (hcfg ▸ hturn)
  rw [atReply_of_stage_eq hstage] at hS
  exact ⟨_, exec_of_received hi s, (closeFrame_cfg _ _ _).trans hcfg, hS⟩

/-! From `DetectFeatureSupport` to the discovery. -/

/-- 42_fsm_rx.md R166: the registers after step 2 of a Config that ends the detection. -/
theorem step2Of_configIU_S_of_detect {s : State} (hstage : s.S.stage = .detectFeatureSupport)
    (h : RxHead) (common : ConfigCommon) (iu : IUSub) :
    ∃ cur lastError, (step2Of (.configIU h common iu) (step1Of (.configIU h common iu) s)).S =
      { (if iu.unknownFlags = 2 then
          { s.S with features := s.cfg.defaultFeatures, stage := .findNextControllerTx }
        else { s.S with stage := .featureRequest } : Session) with
        cur := cur
        lastError := lastError } := by
  have hstep1 : step1Of (.configIU h common iu) s = afterStart _ s :=
    afterStep1_of_stage_ne (by rw [hstage]; decide) _ _
  obtain ⟨cur, hS⟩ := onConfigIU_S common iu (step1Of (.configIU h common iu) s)
  rw [hstep1, detectFeatures_S_of_stage_eq (by exact hstage)] at hS
  exact ⟨cur, iu.error, by rw [hstep1]; exact hS⟩

/-- 42_fsm_rx.md R166: the default features, and the neighbour probed with the turn. -/
theorem exec_configIU_default {s : State} {h : RxHead} {iu : IUSub}
    (hstage : s.S.stage = .detectFeatureSupport) (hflags : iu.unknownFlags = 2)
    (hturn : ownsTurn s.cfg (tokenOf h) h.last) (common : ConfigCommon) :
    ∃ t, exec (.configIU h common iu) s = .next t ∧ t.cfg = s.cfg ∧
      t.S.stage = .findNextControllerRx ∧ t.S.features = s.cfg.defaultFeatures ∧
      t.S.nextTok = .controller := by
  obtain ⟨cur, lastError, hS⟩ := step2Of_configIU_S_of_detect hstage h common iu
  rw [if_pos hflags] at hS
  obtain ⟨t, hexec, hcfg, g, d, zd, q, ht⟩ :=
    exec_row_of_discovery (i := .configIU h common iu) rfl s hturn (by rw [hS])
  rw [hS] at ht
  refine ⟨t, hexec, hcfg, ?_⟩
  rw [ht]
  exact ⟨rfl, rfl, rfl⟩

/-- 42_fsm_rx.md R166: the features are requested. -/
theorem exec_configIU_request {s : State} {iu : IUSub}
    (hstage : s.S.stage = .detectFeatureSupport) (hflags : iu.unknownFlags ≠ 2) (h : RxHead)
    (common : ConfigCommon) :
    ∃ t, exec (.configIU h common iu) s = .next t ∧ t.cfg = s.cfg ∧
      t.S.stage = .featureRequest := by
  obtain ⟨cur, lastError, hS⟩ := step2Of_configIU_S_of_detect hstage h common iu
  rw [if_neg hflags] at hS
  obtain ⟨t, hexec, hcfg, g, d, zd, q, ht⟩ :=
    exec_row (i := .configIU h common iu) rfl s (by rw [hS]; simp)
  rw [hS] at ht
  exact ⟨t, hexec, hcfg, by rw [ht]⟩

/-- 42_fsm_rx.md R170: features with zones lead to the zone request. -/
theorem exec_featuresIU_zones {s : State} {f : Features} (hv : s.cfg.variant = .zoned)
    (hstage : s.S.stage = .featureRequest) (hf : f.zones = true) (h : RxHead) :
    ∃ t, exec (.featuresIU h f) s = .next t ∧ t.cfg = s.cfg ∧
      t.S.stage = .zoneRequestEnabled ∧ t.S.features = f := by
  have hstep1 : step1Of (.featuresIU h f) s = afterStart _ s :=
    afterStep1_of_stage_ne (by rw [hstage]; decide) _ _
  have hzones : zonesNegotiated s.cfg f = true := (zonesNegotiated_iff _ _).2 ⟨hv, hf⟩
  have hS : (step2Of (.featuresIU h f) (step1Of (.featuresIU h f) s)).S =
      { s.S with features := f, stage := .zoneRequestEnabled } := by
    rw [hstep1, step2Of, onFeaturesIU_S_of_stage_eq (by exact hstage), afterStart_cfg, hzones]
    rfl
  obtain ⟨t, hexec, hcfg, g, d, zd, q, ht⟩ :=
    exec_row (i := .featuresIU h f) rfl s (by rw [hS]; simp)
  rw [hS] at ht
  refine ⟨t, hexec, hcfg, ?_⟩
  rw [ht]
  exact ⟨rfl, rfl⟩

/-- 42_fsm_rx.md R172: the enabled zones are stored, and the neighbour probed with the turn. -/
theorem exec_zoneFunctionIU_enabled {s : State} {h : RxHead} (hv : s.cfg.variant = .zoned)
    (hstage : s.S.stage = .zoneRequestEnabled) (hturn : ownsTurn s.cfg (tokenOf h) h.last)
    (b : ZoneFunctionBody) :
    ∃ t, exec (.zoneFunctionIU h b) s = .next t ∧ t.cfg = s.cfg ∧
      t.S.stage = .findNextControllerRx ∧ t.S.features = s.S.features ∧
      t.S.zoneEnabled = b.enabledZones := by
  have hstep1 : step1Of (.zoneFunctionIU h b) s = afterStart _ s :=
    afterStep1_of_stage_ne (by rw [hstage]; decide) _ _
  have hS : (step2Of (.zoneFunctionIU h b) (step1Of (.zoneFunctionIU h b) s)).S =
      { s.S with
        zoneEnabled := b.enabledZones
        zoneCommon := b.commonZone
        stage := .findNextControllerTx } := by
    rw [hstep1, step2Of]
    exact onZoneFunctionIU_S_of_stage_eq (s := afterStart _ s) hv hstage b
  obtain ⟨t, hexec, hcfg, g, d, zd, q, ht⟩ :=
    exec_row_of_discovery (i := .zoneFunctionIU h b) rfl s hturn (by rw [hS])
  rw [hS] at ht
  refine ⟨t, hexec, hcfg, ?_⟩
  rw [ht]
  exact ⟨rfl, rfl, rfl⟩

/-! From the discovery to `Complete`. -/

/-- 42_fsm_rx.md R163: a Config of the indoor unit ends the discovery, no neighbour having answered. -/
theorem exec_configIU_discovery {s : State} (hstage : s.S.stage = .findNextControllerRx)
    (h : RxHead) (common : ConfigCommon) (iu : IUSub) :
    ∃ t, exec (.configIU h common iu) s = .next t ∧ t.cfg = s.cfg ∧
      t.S.stage = (if s.cfg.variant = .zoned ∧ s.S.features.zones = true then .zoneRequestActive
        else .complete) ∧
      t.S.nextTok = .indoorUnit ∧ t.S.features = s.S.features ∧
      t.S.zoneEnabled = s.S.zoneEnabled := by
  have hd : (step1Of (.configIU h common iu) s).S = _ := afterStep1_S_of_stage_eq hstage _ _
  generalize hst : (if s.cfg.variant = .zoned ∧ s.S.features.zones = true then
    Stage.zoneRequestActive else .complete) = st at hd ⊢
  have hne : st ≠ .detectFeatureSupport ∧ st ≠ .findNextControllerTx := by
    rw [← hst]; split <;> decide
  obtain ⟨cur, hS⟩ := onConfigIU_S common iu (step1Of (.configIU h common iu) s)
  rw [detectFeatures_of_stage_ne (by rw [hd]; exact hne.1), hd] at hS
  obtain ⟨t, hexec, hcfg, g, d, zd, q, ht⟩ :=
    exec_row (i := .configIU h common iu) rfl s (by rw [step2Of, hS]; exact hne.2)
  rw [step2Of, hS] at ht
  refine ⟨t, hexec, hcfg, ?_⟩
  rw [ht]
  exact ⟨rfl, rfl, rfl, rfl⟩

/-- 42_fsm_rx.md R174: the zone record completes the negotiation. -/
theorem exec_zoneConfigIU_active {s : State} (hv : s.cfg.variant = .zoned)
    (hstage : s.S.stage = .zoneRequestActive) (h : RxHead) (z : ZoneFields) :
    ∃ t, exec (.zoneConfigIU h z) s = .next t ∧ t.S.stage = .complete ∧
      t.S.features = s.S.features ∧ t.S.zoneEnabled = s.S.zoneEnabled ∧ t.S.zcur = z := by
  have hstep1 : step1Of (.zoneConfigIU h z) s = afterStart _ s :=
    afterStep1_of_stage_ne (by rw [hstage]; decide) _ _
  have hS : (step2Of (.zoneConfigIU h z) (step1Of (.zoneConfigIU h z) s)).S =
      { s.S with zcur := z, stage := .complete } := by
    rw [hstep1, step2Of]
    exact onZoneConfigIU_S_of_stage_eq (s := afterStart _ s) hv hstage z
  obtain ⟨t, hexec, _, g, d, zd, q, ht⟩ :=
    exec_row (i := .zoneConfigIU h z) rfl s (by rw [hS]; simp)
  rw [hS] at ht
  refine ⟨t, hexec, ?_⟩
  rw [ht]
  exact ⟨rfl, rfl, rfl, rfl⟩

/-! The paths. -/

/-- 42_fsm_rx.md R168: no zones in the default features. -/
theorem defaultFeatures_zones {c : Cfg} (hc : c.wellFormed = true) :
    c.defaultFeatures.zones = false := by
  simp only [Cfg.wellFormed, Bool.and_eq_true] at hc
  obtain ⟨⟨⟨_, hfeatures⟩, _⟩, _⟩ := hc
  simpa [Cfg.featuresOk] using hfeatures

/-- Settles O37: the default features have no zones, so the end of the discovery is `Complete`. -/
theorem completeInTwoFrames : Obligations.CompleteInTwoFrames := by
  unfold Obligations.CompleteInTwoFrames
  intro s h₁ h₂ c₁ c₂ u₁ u₂ hc hstage hflags hturn
  obtain ⟨t₁, hexec₁, _, hstage₁, hfeatures₁, htok₁⟩ :=
    exec_configIU_default hstage hflags hturn c₁
  obtain ⟨t₂, hexec₂, _, hstage₂, htok₂, _⟩ := exec_configIU_discovery hstage₁ h₂ c₂ u₂
  rw [hfeatures₁, defaultFeatures_zones hc, if_neg (by simp)] at hstage₂
  exact ⟨t₁, t₂, hexec₁, hstage₁, hfeatures₁, htok₁, hexec₂, hstage₂, htok₂⟩

/-- Settles O38: the five frames, each from the stage that the one before leads to. -/
theorem completeInFiveFrames : Obligations.CompleteInFiveFrames := by
  unfold Obligations.CompleteInFiveFrames
  intro s h₁ h₂ h₃ h₄ h₅ c₁ c₄ u₁ u₄ f b z hv hstage hflags hf hturn
  obtain ⟨t₁, hexec₁, hcfg₁, hstage₁⟩ := exec_configIU_request hstage hflags h₁ c₁
  obtain ⟨t₂, hexec₂, hcfg₂, hstage₂, hfeatures₂⟩ :=
    exec_featuresIU_zones (by rw [hcfg₁, hv]) hstage₁ hf h₂
  have hc₂ : t₂.cfg = s.cfg := hcfg₂.trans hcfg₁
  obtain ⟨t₃, hexec₃, hcfg₃, hstage₃, hfeatures₃, henabled₃⟩ :=
    exec_zoneFunctionIU_enabled (by rw [hc₂, hv]) hstage₂ (hc₂ ▸ hturn) b
  have hc₃ : t₃.cfg = s.cfg := hcfg₃.trans hc₂
  have hf₃ : t₃.S.features = f := hfeatures₃.trans hfeatures₂
  obtain ⟨t₄, hexec₄, hcfg₄, hstage₄, _, hfeatures₄, henabled₄⟩ :=
    exec_configIU_discovery hstage₃ h₄ c₄ u₄
  rw [hc₃, hf₃, if_pos ⟨hv, hf⟩] at hstage₄
  obtain ⟨t₅, hexec₅, hstage₅, hfeatures₅, henabled₅, hzcur₅⟩ :=
    exec_zoneConfigIU_active (by rw [hcfg₄, hc₃, hv]) hstage₄ h₅ z
  exact ⟨t₁, t₂, t₃, t₄, t₅, hexec₁, hstage₁, hexec₂, hstage₂, hexec₃, hstage₃, hexec₄, hstage₄,
    hexec₅, hstage₅, hfeatures₅.trans (hfeatures₄.trans hf₃),
    henabled₅.trans (henabled₄.trans henabled₃), hzcur₅⟩

end Sys2Proof.Machine
end

section
/-! The configuration commands (43_host_commands.md R211 to R226): their words, the flags that lock them by
default, and one law for all commands that make a lock check and one more. -/

namespace Sys2Proof.Machine

/-! The words (30_encoding.md R101). -/

theorem wordsOf_setEnabled : wordsOf 0 fun w => .setEnabled (w.getLsbD 31) (w.getLsbD 0) := by
  intro w hop; rw [decodeCmd, cmdOp, hop]; rfl

theorem wordsOf_setEconomy : wordsOf 1 fun w => .setEconomy (w.getLsbD 31) (w.getLsbD 0) := by
  intro w hop; rw [decodeCmd, cmdOp, hop]; rfl

theorem wordsOf_setTestRun : wordsOf 2 fun w => .setTestRun (w.getLsbD 31) (w.getLsbD 0) := by
  intro w hop; rw [decodeCmd, cmdOp, hop]; rfl

theorem wordsOf_setSetpoint :
    wordsOf 3 fun w => .setSetpoint (w.getLsbD 31) (w.extractLsb' 0 8) := by
  intro w hop; rw [decodeCmd, cmdOp, hop]; rfl

theorem wordsOf_setMode : wordsOf 4 fun w => .setMode (w.getLsbD 31) (w.extractLsb' 0 3) := by
  intro w hop; rw [decodeCmd, cmdOp, hop]; rfl

theorem wordsOf_setFanSpeed :
    wordsOf 5 fun w => .setFanSpeed (w.getLsbD 31) (w.extractLsb' 0 3) := by
  intro w hop; rw [decodeCmd, cmdOp, hop]; rfl

theorem wordsOf_setVerticalSwing :
    wordsOf 6 fun w => .setVerticalSwing (w.getLsbD 31) (w.getLsbD 0) := by
  intro w hop; rw [decodeCmd, cmdOp, hop]; rfl

theorem wordsOf_setHorizontalSwing :
    wordsOf 7 fun w => .setHorizontalSwing (w.getLsbD 31) (w.getLsbD 0) := by
  intro w hop; rw [decodeCmd, cmdOp, hop]; rfl

theorem wordsOf_advanceVerticalLouver :
    wordsOf 8 fun w => .advanceVerticalLouver (w.getLsbD 31) := by
  intro w hop; rw [decodeCmd, cmdOp, hop]; rfl

theorem wordsOf_advanceHorizontalLouver :
    wordsOf 9 fun w => .advanceHorizontalLouver (w.getLsbD 31) := by
  intro w hop; rw [decodeCmd, cmdOp, hop]; rfl

theorem wordsOf_resetFilter : wordsOf 11 fun w => .resetFilter (w.getLsbD 31) := by
  intro w hop; rw [decodeCmd, cmdOp, hop]; rfl

theorem wordsOf_maintenance : wordsOf 12 fun w => .maintenance (w.getLsbD 31) := by
  intro w hop; rw [decodeCmd, cmdOp, hop]; rfl

/-! The locks (43_host_commands.md R212). -/

/-- The flags that lock a command by default are those its rows of `lockMapRef` name. -/
theorem lockedByDefault_of_rows {cmd : LockCmd} {flags : List LockFlag}
    (hrows : (lockMapRef.filter fun e => decide (e.1 = cmd)).map Prod.snd = flags) (s : State)
    (o : Bool) : lockedByDefault s cmd o flags := by
  intro hmap
  have hmem : ∀ f, f ∈ flags ↔ (cmd, f) ∈ lockMapRef := by
    intro f
    simp [← hrows]
  simp only [lockedOut, hmap, hmem]

section
variable {i : Instr} {s : State} {cmd : LockCmd} {o b : Bool} {cause : RejectCause} {g : Chg → Chg}

/-- The lock check before the others. -/
theorem lockCheck_passed_iff (rest : List (Bool × RejectCause)) :
    (∀ e ∈ (locked s cmd o, .locked) :: rest, e.1 = false) ↔
      ¬lockedOut s cmd o ∧ ∀ e ∈ rest, e.1 = false := by
  rw [List.forall_mem_cons, ← locked_iff, Bool.not_eq_true]

/-! The template of R211. -/

/-- A configuration command is accepted exactly where its checks are passed. -/
theorem acceptsIff_configCommand {f : ConfigField} {ok : Prop} {l : List (Bool × RejectCause)}
    (hexec : exec i s = .next (configCommand l f g s)) (hok : (∀ e ∈ l, e.1 = false) ↔ ok) :
    acceptsIff i ok s (pended (dirtyIndex f) g s) :=
  acceptsIff_of_checks (hexec.trans (congrArg _ (configCommand_eq l f g s))) hok

/-- A command that makes the lock check only. -/
theorem acceptsIff_locked (f : ConfigField)
    (hexec : exec i s = .next (configCommand [(locked s cmd o, .locked)] f g s)) :
    acceptsIff i (¬lockedOut s cmd o) s (pended (dirtyIndex f) g s) :=
  acceptsIff_configCommand hexec (by rw [lockCheck_passed_iff]; simp)

/-- A command that makes the lock check and needs `b`, a feature bit or a range. -/
theorem acceptsIff_gated (f : ConfigField)
    (hexec : exec i s =
      .next (configCommand [(locked s cmd o, .locked), (!b, cause)] f g s)) :
    acceptsIff i (¬lockedOut s cmd o ∧ b = true) s (pended (dirtyIndex f) g s) :=
  acceptsIff_configCommand hexec (by rw [lockCheck_passed_iff]; simp)

/-- A command that makes the lock check and whose code must be defined and supported. -/
theorem acceptsIff_coded {defined supported : Bool} {undefinedCause missingCause : RejectCause}
    (f : ConfigField)
    (hexec : exec i s = .next (configCommand [(locked s cmd o, .locked),
      (!defined, undefinedCause), (!supported, missingCause)] f g s)) :
    acceptsIff i (¬lockedOut s cmd o ∧ defined = true ∧ supported = true) s
      (pended (dirtyIndex f) g s) :=
  acceptsIff_configCommand hexec (by rw [lockCheck_passed_iff]; simp)

end

/-! The operands. -/

theorem setpointInRange_iff (d : BitVec 8) :
    setpointInRange d = true ↔ 16 ≤ d.toNat ∧ d.toNat ≤ 30 := decide_eq_true_iff

/-- The eight codes of three bits. -/
theorem code_cases (m : BitVec 3) :
    m = 0 ∨ m = 1 ∨ m = 2 ∨ m = 3 ∨ m = 4 ∨ m = 5 ∨ m = 6 ∨ m = 7 := by
  revert m
  decide

/-- The mode codes of 30_encoding.md R96, each with its feature bit. -/
theorem mode_iff (t : Features) (m : BitVec 3) :
    modeDefined m = true ∧ modeSupported t m = true ↔
      m = 1 ∧ t.modeFan = true ∨ m = 2 ∧ t.modeDry = true ∨ m = 3 ∧ t.modeCool = true ∨
        m = 4 ∧ t.modeHeat = true ∨ m = 5 ∧ t.modeAuto = true := by
  obtain rfl | rfl | rfl | rfl | rfl | rfl | rfl | rfl := code_cases m <;>
    simp [modeDefined, modeSupported]

/-- The fan speed codes of 30_encoding.md R97, each with its feature bit. -/
theorem speed_iff (t : Features) (m : BitVec 3) :
    speedDefined m = true ∧ speedSupported t m = true ↔
      m = 0 ∧ t.fanAuto = true ∨ m = 1 ∧ t.fanQuiet = true ∨ m = 2 ∧ t.fanLow = true ∨
        m = 3 ∧ t.fanMedium = true ∨ m = 4 ∧ t.fanHigh = true := by
  obtain rfl | rfl | rfl | rfl | rfl | rfl | rfl | rfl := code_cases m <;>
    simp [speedDefined, speedSupported]

/-! The commands. -/

/-- Settles O41: both commands make the lock check only. -/
theorem setEnabledAndTestRun : Obligations.SetEnabledAndTestRun := by
  unfold Obligations.SetEnabledAndTestRun
  intro s o v
  exact ⟨acceptsIff_locked .enabled rfl, acceptsIff_locked .testRun rfl, wordsOf_setEnabled,
    wordsOf_setTestRun, lockedByDefault_of_rows rfl s o, lockedByDefault_of_rows rfl s o⟩

/-- Settles O42: each command makes the lock check and needs its feature bit. -/
theorem setEconomyAndSwing : Obligations.SetEconomyAndSwing := by
  unfold Obligations.SetEconomyAndSwing
  intro s o v
  exact ⟨acceptsIff_gated .economy rfl, acceptsIff_gated .swingVertical rfl,
    acceptsIff_gated .swingHorizontal rfl, wordsOf_setEconomy, wordsOf_setVerticalSwing,
    wordsOf_setHorizontalSwing, lockedByDefault_of_rows rfl s o, lockedByDefault_of_rows rfl s o,
    lockedByDefault_of_rows rfl s o⟩

/-- Settles O43: the range stands in the place of a feature bit, and the override is in the lock check
only. -/
theorem setSetpoint : Obligations.SetSetpoint := by
  unfold Obligations.SetSetpoint
  intro s o d
  refine ⟨?_, wordsOf_setSetpoint, lockedByDefault_of_rows rfl s o⟩
  rw [← setpointInRange_iff, ← BitVec.setWidth_eq_extractLsb' (by decide)]
  exact acceptsIff_gated .setpoint rfl

/-- Settles O44: the code checks of the two commands are their code tables. -/
theorem setModeAndFanSpeed : Obligations.SetModeAndFanSpeed := by
  unfold Obligations.SetModeAndFanSpeed
  intro s o m
  refine ⟨?mode, ?speed, wordsOf_setMode, wordsOf_setFanSpeed, lockedByDefault_of_rows rfl s o,
    lockedByDefault_of_rows rfl s o⟩
  case mode =>
    rw [← mode_iff]
    exact acceptsIff_coded .mode rfl
  case speed =>
    rw [← speed_iff]
    exact acceptsIff_coded .fanSpeed rfl

/-- Settles O45: each command makes the lock check and needs its feature bit. -/
theorem momentaryCommands : Obligations.MomentaryCommands := by
  unfold Obligations.MomentaryCommands
  intro s o
  exact ⟨acceptsIff_gated .advanceVerticalLouver rfl, acceptsIff_gated .advanceHorizontalLouver rfl,
    acceptsIff_gated .resetFilterTimer rfl, acceptsIff_gated .maintenance rfl,
    wordsOf_advanceVerticalLouver, wordsOf_advanceHorizontalLouver, wordsOf_resetFilter,
    wordsOf_maintenance⟩

end Sys2Proof.Machine
end

section
/-! The outcome of any command word (43_host_commands.md R210): one answer, nothing sent, and nothing
changed of what was learned from the bus, REINIT aside. -/

namespace Sys2Proof.Machine

/-- The session registers that hold what was learned from the bus, which no command but REINIT writes. -/
def learned (S : Session) :
    Stage × Features × ConfigCommon × IUSub × ZoneFields × ZoneMask × Bool × Role × Bool :=
  (S.stage, S.features, S.cur.common, S.cur.iu, S.zcur, S.zoneEnabled, S.zoneCommon, S.nextTok,
    S.lastError)

/-- The command `i` completes in `s` with one answer, last, after the events `outs`; rejected, it does
nothing else. -/
def Answers (i : Instr) (s : State) (outs : List Output) (t : State) : Prop :=
  ∃ accepted, exec i s = .next t ∧ t.ports.out = s.ports.out ++ outs ++ [.cmdAccept accepted] ∧
    (accepted = false → t = answered false s) ∧ t.cfg = s.cfg ∧ t.work = s.work ∧
    t.ports.rst = s.ports.rst ∧ t.ports.rx = s.ports.rx ∧ t.ports.cmd = s.ports.cmd

/-- A command whose update writes session registers only, and none that `learned` lists, answers with no
event and leaves them. -/
theorem answers_of_quiet {i : Instr} {s : State} {cause : Option RejectCause} {u : State → State}
    (hexec : exec i s = .next (finishCommand cause u s))
    (hquiet : (u s).cfg = s.cfg ∧ (u s).work = s.work ∧ (u s).ports = s.ports)
    (hlearned : learned (u s).S = learned s.S) :
    ∃ t, Answers i s [] t ∧ learned t.S = learned s.S := by
  rw [finishCommand_eq] at hexec
  split at hexec
  case isTrue =>
    obtain ⟨hcfg, hwork, hports⟩ := hquiet
    exact ⟨_, ⟨true, hexec, by simp [hports], by simp, hcfg, hwork, by simp [hports],
      by simp [hports], by simp [hports]⟩, hlearned⟩
  case isFalse =>
    exact ⟨_, ⟨false, hexec, by simp, fun _ => rfl, rfl, rfl, rfl, rfl, rfl⟩, rfl⟩

/-- 43_host_commands.md R232: REINIT is accepted after its `StageChanged`. -/
theorem answers_reinit (o : Bool) (s : State) :
    ∃ t, Answers (.reinit o) s [.evt (.stageChanged .detectFeatureSupport {})] t :=
  ⟨_, true, rfl, rfl, by simp, rfl, rfl, rfl, rfl, rfl⟩

/-- Every command word is REINIT or answers with no event and leaves what was learned. -/
theorem answers_decodeCmd (w : BitVec 32) (s : State) :
    (∃ o, decodeCmd w = .reinit o) ∨
      ∃ t, Answers (decodeCmd w) s [] t ∧ learned t.S = learned s.S := by
  apply decodeCmd_induction (P := fun i => (∃ o, i = .reinit o) ∨
    ∃ t, Answers i s [] t ∧ learned t.S = learned s.S)
  case reinit =>
    intro o
    exact .inl ⟨o, rfl⟩
  all_goals
    intros
    exact .inr (answers_of_quiet rfl ⟨rfl, rfl, rfl⟩ rfl)

/-- Settles O53: the words of REINIT, and all others. -/
theorem commandOutcome : Obligations.CommandOutcome := by
  unfold Obligations.CommandOutcome
  intro s w
  obtain ⟨o, hw⟩ | ⟨t, ⟨accepted, hexec, hout, hreject, hframe⟩, hlearned⟩ := answers_decodeCmd w s
  · obtain ⟨t, accepted, hexec, hout, hreject, hcfg, hwork, hrst, hrx, hcmd⟩ := answers_reinit o s
    exact ⟨t, _, accepted, hw ▸ hexec, hout, hreject, rfl, by simp [Output.isEvent], hcfg, hwork,
      hrst, hrx, hcmd, .inl ⟨o, hw⟩⟩
  · obtain ⟨hcfg, hwork, hrst, hrx, hcmd⟩ := hframe
    simp only [learned, Prod.mk.injEq] at hlearned
    exact ⟨t, [], accepted, hexec, hout, hreject, rfl, by simp, hcfg, hwork, hrst, hrx, hcmd,
      .inr ⟨rfl, hlearned⟩⟩

end Sys2Proof.Machine
end

section
/-! RESET_FILTER asserted once (42_fsm_rx.md R190, R191): the Config replies of three turns in `Complete`,
read back from the wire. -/

namespace Sys2Proof.Machine

/-! A Config of a controller on the wire. -/

/-- A Config that is sent reads back, but for what its temperature is rounded to and the indoor unit's
part, which it has no field for. -/
theorem decodeOf_encodeOf_configC {c : Cfg} (hc : c.wellFormed = true) {r : Packet} {b : ConfigBody}
    (hkind : packetKind c r = .configC) (hbody : r.body = .config b) :
    ∃ temp, (decodeOf c (encodeOf c r)).body =
      .config { common := b.common, ctl := { b.ctl with temperature := temp } } := by
  have hdecoded : (decodeOf c (encodeOf c r)).body =
      decodeBody c .configC (encodeLogicalOf c r) := by
    rw [← hkind, ← packetKind_decodeOf_encodeOf hc r, decodeOf, encodeOf, invertFrame_invertFrame]
    rfl
  obtain ⟨m, k, hread, hm, hk, _⟩ := readsAs_decodeBody c .configC (encodeLogicalOf c r)
  have hwritten := writtenAs_encodeLogicalOf hc r
  rw [hkind, hbody] at hwritten
  obtain ⟨hcommon, hctl, _⟩ := hwritten
  have hsame : k = { b.ctl with temperature := k.temperature } := holdsCtl_unique hk hctl rfl
  refine ⟨k.temperature, ?_⟩
  rw [hdecoded, hread, holdsCommon_unique hm hcommon, ← hsame]

/-! A turn in `Complete` with nothing but a Config to send. -/

/-- `Complete`, with no zone change and no function waiting. -/
def ConfigNext (S : Session) : Prop := S.stage = .complete ∧ S.zdirty = 0 ∧ S.funcq = []

/-- No discovery action is taken, and the Config is chosen: order 7 of 42_fsm_rx.md R181. -/
theorem chooseReply_of_configNext {b : State} (hnext : ConfigNext b.S) (herror : ¬errorReplyDue b) :
    atReply b = b ∧ chooseReply b = .config := by
  obtain ⟨hstage, hzdirty, hfuncq⟩ := hnext
  have hatReply : atReply b = b := atReply_of_stage_ne (by rw [hstage]; decide)
  have hchoose := chooseReply_of_no_request (b := b) (by simp [hatReply, hstage, requestStage]) herror
  rw [hatReply, hzdirty, hfuncq] at hchoose
  exact ⟨hatReply, hchoose⟩

/-- A Status that gives the turn is answered by the Config write-or-poll of the registers. -/
theorem exec_statusIU_config {s : State} {h : RxHead} (hc : s.cfg.wellFormed = true)
    (hnext : ConfigNext s.S) (hturn : ownsTurn s.cfg (tokenOf h) h.last) :
    ∃ t w temp, exec (.statusIU h) s = .next t ∧ t.cfg = s.cfg ∧
      t.S = consumeDirty s.cfg.selfClearing s.S ∧
      framesSent t.ports.out = framesSent s.ports.out ++ [w] ∧
      (decodeOf s.cfg w).body = .config
        { common := mergedCommon s.S, ctl := { mergedCtl s.S with temperature := temp } } := by
  obtain ⟨raw, hstep1⟩ : ∃ raw, step1Of (.statusIU h) s = afterStart raw s :=
    ⟨_, afterStep1_of_stage_ne (by rw [hnext.1]; decide) _ _⟩
  obtain ⟨hatReply, hchoose⟩ := chooseReply_of_configNext (b := afterStart raw s) hnext
    (by simp [errorReplyDue, Transients.idle])
  have hclose := closeFrame_of_turn (b := afterStart raw s) hturn
  rw [hatReply, replyOf, hchoose] at hclose
  have hexec := exec_of_received (i := .statusIU h) rfl s
  rw [hstep1] at hexec
  obtain ⟨temp, hdecoded⟩ := decodeOf_encodeOf_configC hc
    (r := replyPacket (afterStart raw s) typeConfig
      (.config { common := mergedCommon s.S, ctl := mergedCtl s.S })) rfl rfl
  refine ⟨_, _, temp, hexec.trans (congrArg _ hclose), rfl, rfl, ?_, hdecoded⟩
  rw [afterReply_ports]
  simp [replyCode, replyBody]

/-! The registers from turn to turn. -/

/-- RESET_FILTER waits to be sent with the value `v`, and nothing else does. -/
def filterPending (v : Bool) (S : Session) : Session :=
  { S with chg := { S.chg with resetFilterTimer := v }, dirty := 1#12 <<< 10 }

theorem isDirty_filterPending (v : Bool) (S : Session) (f : ConfigField) :
    isDirty (filterPending v S).dirty f = decide (f = .resetFilterTimer) := by
  show isDirty (1#12 <<< 10) f = _
  cases f <;> decide

/-- The Config of a waiting RESET_FILTER is a write, with the flag as it waits. -/
theorem mergedCtl_filterPending (v : Bool) (S : Session) :
    (mergedCtl (filterPending v S)).write = true ∧
      (mergedCtl (filterPending v S)).resetFilterTimer = v := by
  simp only [mergedCtl, isDirty_filterPending]
  simp [filterPending]

/-- Applied as 1 the flag is dirty again, as 0. -/
theorem consumeDirty_filterPending_true (S : Session) :
    consumeDirty [.resetFilterTimer, .maintenance] (filterPending true S) =
      filterPending false S := by
  simp only [consumeDirty, selfClearOne, isDirty_filterPending, List.foldl_cons, List.foldl_nil]
  simp [filterPending, momentaryValue, clearMomentary, markDirty, dirtyIndex]

/-- Applied as 0 the flag is clean. -/
theorem consumeDirty_filterPending_false (S : Session) :
    consumeDirty [.resetFilterTimer, .maintenance] (filterPending false S) =
      { filterPending false S with dirty := 0 } := by
  simp only [consumeDirty, selfClearOne, isDirty_filterPending, List.foldl_cons, List.foldl_nil]
  simp [filterPending, momentaryValue]

/-- The Config of clean registers is a poll, without the flag. -/
theorem mergedCtl_of_clean {S : Session} (hdirty : S.dirty = 0) :
    (mergedCtl S).write = false ∧ (mergedCtl S).resetFilterTimer = false := by
  simp [mergedCtl, isDirty, hdirty]

/-- A poll leaves the registers. -/
theorem consumeDirty_of_clean {S : Session} (hdirty : S.dirty = 0) (l : List ConfigField) :
    consumeDirty l S = S := by
  have hkeep : ∀ f, selfClearOne 0 S f = S := by
    intro f
    simp [selfClearOne, isDirty]
  have hsame : ({ S with dirty := 0 } : Session) = S := by rw [← hdirty]
  rw [consumeDirty, hdirty, hsame]
  induction l with
  | nil => rfl
  | cons f l ih => rw [List.foldl_cons, hkeep, ih]

/-- An accepted RESET_FILTER with nothing dirty. -/
theorem exec_resetFilter {s : State} {o : Bool} (hlock : ¬lockedOut s .resetFilter o)
    (hfeature : s.S.features.filterTimer = true) (hdirty : s.S.dirty = 0) :
    exec (.resetFilter o) s = .next (answered true { s with S := filterPending true s.S }) := by
  obtain ⟨_, _, ⟨haccept, _⟩, _⟩ := momentaryCommands s o
  rw [haccept ⟨hlock, hfeature⟩, pended, hdirty]
  rfl

/-- Settles O40: three Config replies, of the registers that the command and each reply leave. -/
theorem twoWritesThenPoll : Obligations.TwoWritesThenPoll := by
  unfold Obligations.TwoWritesThenPoll
  intro s o h₁ h₂ h₃ hc hclearing hstage hzdirty hfuncq hdirty hfeature hlock hturn₁ hturn₂ hturn₃
  have hnext : ConfigNext s.S := ⟨hstage, hzdirty, hfuncq⟩
  obtain ⟨t₁, w₁, temp₁, hexec₁, hcfg₁, hS₁, hsent₁, hbody₁⟩ :=
    exec_statusIU_config (s := answered true { s with S := filterPending true s.S }) hc hnext hturn₁
  replace hcfg₁ : t₁.cfg = s.cfg := hcfg₁
  replace hS₁ : t₁.S = filterPending false s.S := by
    rw [hS₁, answered_cfg, hclearing]
    exact consumeDirty_filterPending_true s.S
  obtain ⟨t₂, w₂, temp₂, hexec₂, hcfg₂, hS₂, hsent₂, hbody₂⟩ :=
    exec_statusIU_config (s := t₁) (hcfg₁ ▸ hc) (hS₁ ▸ hnext) (hcfg₁ ▸ hturn₂)
  rw [hcfg₁] at hcfg₂ hbody₂
  replace hS₂ : t₂.S = { filterPending false s.S with dirty := 0 } := by
    rw [hS₂, hcfg₁, hclearing, hS₁]
    exact consumeDirty_filterPending_false s.S
  obtain ⟨t₃, w₃, temp₃, hexec₃, _, hS₃, hsent₃, hbody₃⟩ :=
    exec_statusIU_config (s := t₂) (hcfg₂ ▸ hc) (hS₂ ▸ hnext) (hcfg₂ ▸ hturn₃)
  rw [hcfg₂] at hbody₃
  rw [consumeDirty_of_clean (by rw [hS₂]), hS₂] at hS₃
  rw [hS₁] at hbody₂
  obtain ⟨hwrite₁, hflag₁⟩ := mergedCtl_filterPending true s.S
  obtain ⟨hwrite₂, hflag₂⟩ := mergedCtl_filterPending false s.S
  obtain ⟨hwrite₃, hflag₃⟩ := mergedCtl_of_clean (S := t₂.S) (by rw [hS₂])
  refine ⟨_, t₁, t₂, t₃, w₁, w₂, w₃, _, _, _, exec_resetFilter hlock hfeature hdirty, hexec₁, hexec₂,
    hexec₃, ?_, hbody₁, hbody₂, hbody₃, hwrite₁, hflag₁, hwrite₂, hflag₂, hwrite₃, hflag₃,
    by rw [hS₃]⟩
  rw [hsent₃, hsent₂, hsent₁, answered_ports, framesSent_append]
  simp [framesSent]

end Sys2Proof.Machine
end

section
/-! The command word (30_encoding.md R100, R101) in both directions: a command row is read back from its
word, every word is a row with the same operation code, and the bits that an operation does not name do
not count. -/

namespace Sys2Proof

/-- The decoder reads back each operand from the place where the encoder put it. -/
theorem decodeCmd_of_encode {c : Cfg} {i : Instr} {w : BitVec 32}
    (h : encode c i = some (.cmd w)) : decodeCmd w = i := by
  cases i <;> cases h <;> simp [decodeCmd]

/-- A row with an operation code is presented as a word with that code. -/
theorem encode_of_rowOp {i : Instr} {op : BitVec 5} (h : Laws.rowOp i = some op) (c : Cfg) :
    ∃ w, encode c i = some (.cmd w) ∧ cmdOp w = op := by
  have hword : ∃ o arg, encode c i = some (.cmd (cmdWord o op arg)) := by
    cases i <;> cases h <;> exact ⟨_, _, rfl⟩
  obtain ⟨o, arg, hencode⟩ := hword
  exact ⟨_, hencode, cmdOp_cmdWord o op arg⟩

/-- Every word is read as a row of its operation code. -/
theorem rowOp_decodeCmd (w : BitVec 32) : Laws.rowOp (decodeCmd w) = some (cmdOp w) := by
  have hlt := (cmdOp w).isLt
  unfold decodeCmd
  split
  case h_32 =>
    refine congrArg some (BitVec.eq_of_toNat_eq ?_)
    show 31 = (cmdOp w).toNat
    simp only [imp_false] at *
    omega
  all_goals exact congrArg some (BitVec.eq_of_toNat_eq (Eq.symm ‹(cmdOp w).toNat = _›))

/-- Settles O5: `decodeCmd_of_encode`, and the operation code of a word kept through the row. -/
theorem commandsRoundTrip : Obligations.CommandsRoundTrip := by
  unfold Obligations.CommandsRoundTrip
  exact ⟨fun _ _ _ h => decodeCmd_of_encode h, fun c w => encode_of_rowOp (rowOp_decodeCmd w) c⟩

/-! The bits that do not count. -/

/-- Two words agree on the bits of `arg` that the mask names. -/
def AgreeOn (m : BitVec 24) (w x : BitVec 32) : Prop :=
  w.extractLsb' 0 24 &&& m = x.extractLsb' 0 24 &&& m

theorem AgreeOn.getLsbD {m : BitVec 24} {w x : BitVec 32} (h : AgreeOn m w x) {k : Nat}
    (hk : m.getLsbD k = true) : w.getLsbD k = x.getLsbD k := by
  have hlt : k < 24 := BitVec.lt_of_getLsbD hk
  have hbit := congrArg (fun v => v.getLsbD k) h
  simpa only [BitVec.getLsbD_and, hk, Bool.and_true, BitVec.getLsbD_extractLsb', hlt, decide_true,
    Bool.true_and, Nat.zero_add] using hbit

/-- A field all of whose bits are named is the same in both words. -/
theorem AgreeOn.extract {m : BitVec 24} {w x : BitVec 32} (h : AgreeOn m w x) (st n : Nat)
    (hm : ∀ k < n, m.getLsbD (st + k) = true) : w.extractLsb' st n = x.extractLsb' st n := by
  apply BitVec.eq_of_getLsbD_eq
  intro k hk
  simp only [BitVec.getLsbD_extractLsb', hk, decide_true, Bool.true_and]
  exact h.getLsbD (hm k hk)

theorem argFunction_congr {m : BitVec 24} {w x : BitVec 32} (h : AgreeOn m w x)
    (hm : ∀ k < 20, m.getLsbD k = true) : argFunction w = argFunction x := by
  rw [argFunction, h.extract 0 8 fun k hk => hm _ (by omega),
    h.extract 8 8 fun k hk => hm _ (by omega), h.extract 16 4 fun k hk => hm _ (by omega)]
  rfl

/-- Settles O6: the row of each operation reads the named bits only. The cases are those of `decodeCmd`, in
the order of the operation codes; in those not written out the row has no operand but the override. -/
theorem ignoredCommandBits : Obligations.IgnoredCommandBits := by
  unfold Obligations.IgnoredCommandBits
  intro w x hoverride hop hagree
  change cmdOp w = cmdOp x at hop
  change cmdOverride w = cmdOverride x at hoverride
  change AgreeOn (Machine.namedArg (cmdOp w)) w x at hagree
  unfold decodeCmd
  rw [← hop, ← hoverride]
  unfold Machine.namedArg at hagree
  split <;> rename_i hcode <;> simp only [hcode] at hagree ⊢
  case h_1 | h_2 | h_3 | h_7 | h_8 | h_11 =>
    rw [argFlag, argFlag, hagree.getLsbD (by decide)]
  case h_4 => rw [argDegrees, argDegrees, hagree.extract 0 8 (by decide)]
  case h_5 | h_6 => rw [argCode, argCode, hagree.extract 0 3 (by decide)]
  case h_14 | h_15 | h_16 =>
    rw [argZone, argZone, argZoneValue, argZoneValue, hagree.extract 0 4 (by decide),
      hagree.getLsbD (k := 8) (by decide)]
  case h_17 => rw [argTemperature, argTemperature, hagree.extract 0 16 (by decide)]
  case h_18 => rw [argFunction_congr hagree (by decide)]

end Sys2Proof
end

section
/-! The commands beside the template of R211 (43_host_commands.md R224 to R234): their words and their
effect, the default locks, and what no feature allows. -/

namespace Sys2Proof.Machine

/-! The words (30_encoding.md R101). -/

theorem wordsOf_useSensor : wordsOf 10 fun w => .useSensor (w.getLsbD 31) (w.getLsbD 0) := by
  intro w hop; rw [decodeCmd, cmdOp, hop]; rfl

theorem wordsOf_setZone :
    wordsOf 13 fun w => .setZone (w.getLsbD 31) (w.extractLsb' 0 4) (w.getLsbD 8) := by
  intro w hop; rw [decodeCmd, cmdOp, hop]; rfl

theorem wordsOf_setZoneGroupDay :
    wordsOf 14 fun w => .setZoneGroupDay (w.getLsbD 31) (w.extractLsb' 0 4) (w.getLsbD 8) := by
  intro w hop; rw [decodeCmd, cmdOp, hop]; rfl

theorem wordsOf_setZoneGroupNight :
    wordsOf 15 fun w => .setZoneGroupNight (w.getLsbD 31) (w.extractLsb' 0 4) (w.getLsbD 8) := by
  intro w hop; rw [decodeCmd, cmdOp, hop]; rfl

theorem wordsOf_setCurrentTemperature :
    wordsOf 16 fun w => .setCurrentTemperature (w.getLsbD 31) (w.extractLsb' 0 16) := by
  intro w hop; rw [decodeCmd, cmdOp, hop]; rfl

theorem wordsOf_queueFunction :
    wordsOf 17 fun w => .queueFunction (w.getLsbD 31)
      ⟨w.extractLsb' 0 8, w.extractLsb' 8 8, w.extractLsb' 16 4⟩ := by
  intro w hop; rw [decodeCmd, cmdOp, hop]; rfl

theorem wordsOf_reinit : wordsOf 18 fun w => .reinit (w.getLsbD 31) := by
  intro w hop; rw [decodeCmd, cmdOp, hop]; rfl

/-! A command that ends by its checks. -/

/-- The end of a command in terms of the condition that its checks compute. -/
theorem acceptsIff_finishCommand {i : Instr} {ok : Prop} {s t : State}
    {l : List (Bool × RejectCause)} {u : State → State}
    (hexec : exec i s = .next (finishCommand (firstCause l) u s)) (ht : u s = t)
    (hok : (∀ e ∈ l, e.1 = false) ↔ ok) : acceptsIff i ok s t :=
  acceptsIff_of_checks (hexec.trans (congrArg _ (ht ▸ finishCommand_eq _ u s))) hok

/-- Settles O46: USE_SENSOR makes the lock check and needs its feature bit, and its update is the one
field. -/
theorem useSensor : Obligations.UseSensor := by
  unfold Obligations.UseSensor
  intro s o v
  refine ⟨acceptsIff_finishCommand rfl rfl ?_, wordsOf_useSensor⟩
  rw [useSensorChecks, lockCheck_passed_iff]
  simp

/-- The clamp of 43_host_commands.md R228, on the signed operand. -/
theorem clampTemperature_toNat (t : BitVec 16) :
    ((clampTemperature t).toNat : Int) = min (max t.toInt 0) 15360 := by
  unfold clampTemperature
  split_ifs with hneg hhigh
  · rw [max_eq_right hneg.le]; rfl
  · rw [max_eq_left (by omega), min_eq_right hhigh.le]; rfl
  · rw [max_eq_left (by omega), min_eq_left (by omega), BitVec.toInt_eq_toNat_of_msb]
    rw [BitVec.msb_eq_toInt, decide_eq_false hneg]

/-- Settles O47: the command has no check, and its update is the clamped temperature. -/
theorem setCurrentTemperature : Obligations.SetCurrentTemperature := by
  unfold Obligations.SetCurrentTemperature
  intro s o t
  exact ⟨clampTemperature t, rfl, clampTemperature_toNat t, wordsOf_setCurrentTemperature⟩

/-- Settles O50: the one check is the full queue. -/
theorem queueFunction : Obligations.QueueFunction := by
  unfold Obligations.QueueFunction
  intro s o b
  refine ⟨acceptsIff_finishCommand rfl rfl ?_, wordsOf_queueFunction⟩
  simp [queueFunctionChecks]

/-- Settles O51: REINIT has no check, and its update is `reinitSession` with the start stage. -/
theorem reinit : Obligations.Reinit := by
  unfold Obligations.Reinit
  intro s o
  exact ⟨rfl, wordsOf_reinit⟩

/-! The zone commands (43_host_commands.md R229 to R231). -/

/-- 43_host_commands.md R229: what SET_ZONE checks beside the other zone commands. -/
theorem setZoneChecks_iff (s : State) (o : Bool) (z : BitVec 4) (v : Bool) :
    (∀ e ∈ setZoneChecks o z v s, e.1 = false) ↔
      zoneAllowed s .setZone o z ∧
        ¬(v = false ∧ newActiveZones s z v = 0 ∧ s.S.zoneCommon = false) := by
  rw [setZoneChecks, List.forall_mem_append, zoneChecks_iff, List.forall_mem_singleton]
  simp

/-- Settles O48: the checks, the update and the last active zone. -/
theorem setZone : Obligations.SetZone := by
  unfold Obligations.SetZone
  intro s o z v
  exact ⟨acceptsIff_finishCommand rfl rfl (setZoneChecks_iff s o z v), wordsOf_setZone,
    lockedByDefault_of_rows rfl s o⟩

/-- Settles O49: the group commands make the checks of all zone commands and no other. -/
theorem setZoneGroups : Obligations.SetZoneGroups := by
  unfold Obligations.SetZoneGroups
  intro s o z v
  exact ⟨acceptsIff_finishCommand rfl rfl (zoneChecks_iff s .setZoneGroupDay o z),
    acceptsIff_finishCommand rfl rfl (zoneChecks_iff s .setZoneGroupNight o z),
    wordsOf_setZoneGroupDay, wordsOf_setZoneGroupNight, lockedByDefault_of_rows rfl s o,
    lockedByDefault_of_rows rfl s o⟩

/-! The undefined operation codes (43_host_commands.md R234). -/

/-- The rows of the undefined operation codes. -/
def undefinedRows : List Instr :=
  [.undefinedOp19, .undefinedOp20, .undefinedOp21, .undefinedOp22, .undefinedOp23, .undefinedOp24,
    .undefinedOp25, .undefinedOp26, .undefinedOp27, .undefinedOp28, .undefinedOp29, .undefinedOp30,
    .undefinedOp31]

theorem exec_of_mem_undefinedRows {i : Instr} (hi : i ∈ undefinedRows) (s : State) :
    exec i s = .next (answered false s) := by
  simp only [undefinedRows, List.mem_cons, List.not_mem_nil, or_false] at hi
  obtain rfl | rfl | rfl | rfl | rfl | rfl | rfl | rfl | rfl | rfl | rfl | rfl | rfl := hi <;> rfl

/-- A word with an operation code from 19 is one of these rows. -/
theorem decodeCmd_mem_undefinedRows {w : BitVec 32} (hop : 19 ≤ (cmdOp w).toNat) :
    decodeCmd w ∈ undefinedRows := by
  unfold decodeCmd
  split
  case h_1 | h_2 | h_3 | h_4 | h_5 | h_6 | h_7 | h_8 | h_9 | h_10 | h_11 | h_12 | h_13 | h_14 | h_15 |
      h_16 | h_17 | h_18 | h_19 => omega
  all_goals simp [undefinedRows]

/-- Settles O52: a word of these codes is one of the rows, and each row is rejected. -/
theorem undefinedOps : Obligations.UndefinedOps := by
  unfold Obligations.UndefinedOps
  exact ⟨fun s w hop => exec_of_mem_undefinedRows (decodeCmd_mem_undefinedRows hop) s,
    fun s i hi => exec_of_mem_undefinedRows hi s⟩

/-! The default locks (43_host_commands.md R212). -/

theorem exists_mem_singleton_lockFlag (u : IUSub) (f : LockFlag) :
    (∃ g, g ∈ [f] ∧ lockFlag u g = true) ↔ lockFlag u f = true := by
  simp

theorem exists_mem_pair_lockFlag (u : IUSub) (f f' : LockFlag) :
    (∃ g, g ∈ [f, f'] ∧ lockFlag u g = true) ↔ lockFlag u f = true ∨ lockFlag u f' = true := by
  simp

/-- Settles O54: the flags that the rows of the map name, command by command. -/
theorem defaultLocks : Obligations.DefaultLocks := by
  unfold Obligations.DefaultLocks
  intro s o hmap
  have hone : ∀ k, lockedByDefault s k o [.lockAll] →
      (lockedOut s k o ↔ o = false ∧ s.S.cur.iu.lockAll = true) := fun k hk => by
    rw [hk hmap, exists_mem_singleton_lockFlag]; rfl
  have htwo : ∀ k f, lockedByDefault s k o [.lockAll, f] →
      (lockedOut s k o ↔ o = false ∧ (s.S.cur.iu.lockAll = true ∨ lockFlag s.S.cur.iu f = true)) :=
    fun k f hk => by rw [hk hmap, exists_mem_pair_lockFlag]; rfl
  refine ⟨htwo _ .lockEnabled (lockedByDefault_of_rows rfl s o),
    htwo _ .lockMode (lockedByDefault_of_rows rfl s o),
    htwo _ .lockSetpoint (lockedByDefault_of_rows rfl s o),
    htwo _ .lockFilterReset (lockedByDefault_of_rows rfl s o), ?_⟩
  simp only [List.forall_mem_cons, List.not_mem_nil, false_implies, implies_true, and_true]
  refine ⟨?_, ?_, ?_, ?_, ?_, ?_, ?_, ?_, ?_, ?_, ?_, ?_⟩ <;>
    exact hone _ (lockedByDefault_of_rows rfl s o)

/-! No features (43_host_commands.md R213). -/

/-- Settles O55: the condition of each command, by its own law, asks for a feature bit. -/
theorem beforeNegotiation : Obligations.BeforeNegotiation := by
  unfold Obligations.BeforeNegotiation
  intro s i o v m z hfeatures
  have hzone : ∀ k, ¬zoneAllowed s k o z := fun k hk => by
    obtain ⟨_, hzones, _⟩ := hk
    rw [hfeatures] at hzones
    cases hzones
  obtain ⟨⟨_, heconomy⟩, ⟨_, hvertical⟩, ⟨_, hhorizontal⟩, _⟩ := setEconomyAndSwing s o v
  obtain ⟨⟨_, hmode⟩, ⟨_, hspeed⟩, _⟩ := setModeAndFanSpeed s o m
  obtain ⟨⟨_, hadvanceV⟩, ⟨_, hadvanceH⟩, ⟨_, hfilter⟩, ⟨_, hmaintenance⟩, _⟩ :=
    momentaryCommands s o
  obtain ⟨⟨_, hsensor⟩, _⟩ := useSensor s o v
  obtain ⟨⟨_, hsetZone⟩, _⟩ := setZone s o z v
  obtain ⟨⟨_, hday⟩, ⟨_, hnight⟩, _⟩ := setZoneGroups s o z v
  revert i
  simp only [List.forall_mem_cons, List.not_mem_nil, false_implies, implies_true, and_true]
  refine ⟨heconomy ?_, hmode ?_, hspeed ?_, hvertical ?_, hhorizontal ?_, hadvanceV ?_, hadvanceH ?_,
    hsensor ?_, hfilter ?_, hmaintenance ?_, hsetZone fun h => hzone _ h.1, hday (hzone _),
    hnight (hzone _)⟩ <;> simp [hfeatures]

end Sys2Proof.Machine
end

section
/-! The received-frame rows that write the negotiation or nothing (42_fsm_rx.md R170 to R177), each by its
step 2 on the state after step 1. -/

namespace Sys2Proof.Machine

/-! The stage after step 1 (42_fsm_rx.md R163). -/

/-- The stages that step 1 leads to. -/
def afterDiscovery (st : Stage) : Prop := st = .zoneRequestActive ∨ st = .complete

theorem afterStep1_S_stage_of_stage_eq {s : State} (hs : s.S.stage = .findNextControllerRx)
    (raw : Frame) (role : Role) : afterDiscovery (afterStep1 raw role s).S.stage := by
  rw [afterStep1_S_of_stage_eq hs]
  show afterDiscovery (if _ then _ else _)
  split
  · exact .inl rfl
  · exact .inr rfl

/-- Step 1 neither enters nor leaves a stage of the negotiation before the discovery. -/
theorem afterStep1_stage_iff {st : Stage} (hrx : st ≠ .findNextControllerRx)
    (hend : ¬afterDiscovery st) (raw : Frame) (role : Role) (s : State) :
    (afterStep1 raw role s).S.stage = st ↔ s.S.stage = st := by
  by_cases hs : s.S.stage = .findNextControllerRx
  · refine iff_of_false (fun h => hend ?_) fun h => hrx (h.symm.trans hs)
    exact h ▸ afterStep1_S_stage_of_stage_eq hs raw role
  · rw [afterStep1_of_stage_ne hs, afterStart_S]

/-! The rows. -/

/-- Settles O20: step 2 of a Config defers the notification, that of an Error sets the transient, and that
of the other rows is `onNothing`. -/
theorem controllerRows : Obligations.ControllerRows := by
  unfold Obligations.ControllerRows
  intro s h r common ctl code f b z v
  refine ⟨closesFrom_of_received rfl s, closesFrom_of_received rfl s, ?_⟩
  simp only [List.forall_mem_cons, List.not_mem_nil, false_implies, implies_true, and_true]
  exact ⟨closesFrom_of_received rfl s, closesFrom_of_received rfl s, closesFrom_of_received rfl s,
    closesFrom_of_received rfl s, closesFrom_of_received rfl s, closesFrom_of_received rfl s,
    closesFrom_of_received rfl s, closesFrom_of_received rfl s⟩

theorem onFeaturesIU_of_stage_eq {s : State} (hs : s.S.stage = .featureRequest) (f : Features) :
    onFeaturesIU f s =
      stageSet
        (if s.cfg.variant = .zoned ∧ f.zones = true then .zoneRequestEnabled
          else .findNextControllerTx)
        { s with S := { s.S with features := f } } := by
  rw [onFeaturesIU, if_pos hs]
  simp only [zonesNegotiated_iff, setStage_eq]
  rfl

/-- Settles O21: step 1 neither enters nor leaves `FeatureRequest`, and step 2 depends on it. -/
theorem featuresRow : Obligations.FeaturesRow := by
  unfold Obligations.FeaturesRow
  intro s h f
  have hclose : closesFrom (.featuresIU h f) s
      (onFeaturesIU f (step1Of (.featuresIU h f) s)) := closesFrom_of_received rfl s
  have hstep1 : step1Of (.featuresIU h f) s = afterStep1 _ .indoorUnit s := rfl
  have hiff := afterStep1_stage_iff (st := .featureRequest) (by decide) (by simp [afterDiscovery])
    (rawOf s.cfg (h.packet .indoorUnit typeFeatures (.features f)) h.ignored) .indoorUnit s
  rw [hstep1] at hclose ⊢
  refine ⟨fun hs => ?_, fun hs => ?_⟩
  · rw [onFeaturesIU_of_stage_eq (hiff.2 hs)] at hclose
    simp only [afterStep1_cfg] at hclose ⊢
    exact hclose
  · rwa [onFeaturesIU_of_stage_ne fun hd => hs (hiff.1 hd)] at hclose

theorem onZoneFunctionIU_of_stage_eq {s : State} (hv : s.cfg.variant = .zoned)
    (hs : s.S.stage = .zoneRequestEnabled) (b : ZoneFunctionBody) :
    onZoneFunctionIU b s = stageSet .findNextControllerTx
      { s with S := { s.S with zoneEnabled := b.enabledZones, zoneCommon := b.commonZone } } := by
  rw [onZoneFunctionIU, if_pos ⟨hv, hs⟩]
  rfl

/-- The zone rows do nothing in step 2 in the Legacy variant (log entry 10). -/
theorem onZoneFunctionIU_of_legacy {s : State} (hv : s.cfg.variant = .legacy)
    (b : ZoneFunctionBody) : onZoneFunctionIU b s = s := by
  rw [onZoneFunctionIU, if_neg]
  rintro ⟨hzoned, _⟩
  rw [hv] at hzoned
  cases hzoned

theorem onZoneConfigIU_of_legacy {s : State} (hv : s.cfg.variant = .legacy) (z : ZoneFields) :
    onZoneConfigIU z s = s := by
  rw [onZoneConfigIU, if_neg (by rw [hv]; decide)]

/-- Settles O22: step 1 neither enters nor leaves `ZoneRequestEnabled`, and step 2 depends on it and on
the variant. -/
theorem zoneFunctionRow : Obligations.ZoneFunctionRow := by
  unfold Obligations.ZoneFunctionRow
  intro s h b
  have hclose : closesFrom (.zoneFunctionIU h b) s
      (onZoneFunctionIU b (step1Of (.zoneFunctionIU h b) s)) := closesFrom_of_received rfl s
  have hstep1 : step1Of (.zoneFunctionIU h b) s = afterStep1 _ .indoorUnit s := rfl
  have hiff := afterStep1_stage_iff (st := .zoneRequestEnabled) (by decide) (by simp [afterDiscovery])
    (rawOf s.cfg (h.packet .indoorUnit typeZoneFunction (.zoneFunction b)) h.ignored) .indoorUnit s
  rw [hstep1] at hclose ⊢
  refine ⟨fun hv hs => ?_, ?_⟩
  · rwa [onZoneFunctionIU_of_stage_eq (by rw [afterStep1_cfg, hv]) (hiff.2 hs)] at hclose
  · rintro (hv | hs)
    · rwa [onZoneFunctionIU_of_legacy (by rw [afterStep1_cfg, hv])] at hclose
    · rwa [onZoneFunctionIU_of_stage_ne fun hd => hs (hiff.1 hd)] at hclose

theorem onZoneConfigIU_of_zoned {s : State} (hv : s.cfg.variant = .zoned) (z : ZoneFields) :
    onZoneConfigIU z s =
      if s.S.stage = .zoneRequestActive then
        stageSet .complete (withPending (.zoneConfigUpdate z) { s with S := { s.S with zcur := z } })
      else withPending (.zoneConfigUpdate z) { s with S := { s.S with zcur := z } } := by
  rw [onZoneConfigIU, if_pos hv]
  rfl

/-- Settles O23: step 2 by the variant, and by the stage after step 1. -/
theorem zoneConfigRow : Obligations.ZoneConfigRow := by
  unfold Obligations.ZoneConfigRow
  intro s h z
  have hclose : closesFrom (.zoneConfigIU h z) s
      (onZoneConfigIU z (step1Of (.zoneConfigIU h z) s)) := closesFrom_of_received rfl s
  have hcfg : (step1Of (.zoneConfigIU h z) s).cfg = s.cfg := afterStep1_cfg _ _ s
  refine ⟨fun hv hs => ?_, fun hv hs => ?_, fun hv => ?_⟩
  · rwa [onZoneConfigIU_of_zoned (by rw [hcfg, hv]), if_pos hs] at hclose
  · rwa [onZoneConfigIU_of_zoned (by rw [hcfg, hv]), if_neg hs] at hclose
  · rwa [onZoneConfigIU_of_legacy (by rw [hcfg, hv])] at hclose

/-! Two replies of the bus turn (42_fsm_rx.md R184, R190, R191). -/

/-- Order 4 of 42_fsm_rx.md R181. -/
theorem chooseReply_of_error {b : State} (hstage : ¬requestStage (atReply b).S.stage)
    (herror : errorReplyDue b) : chooseReply (atReply b) = .error := by
  simp only [requestStage, not_or] at hstage
  obtain ⟨hfeatures, henabled, hactive⟩ := hstage
  have hdue : errorDue (atReply b) = true := by
    rw [errorDue_iff, errorReplyDue, atReply_cfg, atReply_work]
    exact herror
  rw [chooseReply, if_neg hfeatures, if_neg henabled, if_neg hactive, hdue]
  rfl

/-- Settles O28: the Error reply is order 4, and leaves the registers. -/
theorem errorReply : Obligations.ErrorReply := by
  unfold Obligations.ErrorReply
  intro b tok last hturn hstage herror
  rw [closeFrame_of_turn hturn, replyOf, chooseReply_of_error hstage herror]
  rfl

/-- The packet of a Config reply does not depend on the discovery action. -/
theorem merged_atReply (b : State) :
    mergedCommon (atReply b).S = mergedCommon b.S ∧ mergedCtl (atReply b).S = mergedCtl b.S := by
  rw [atReply_S]
  exact ⟨rfl, rfl⟩

/-- Settles O31: the Config is order 7, its fields are those of `mergedCommon` and `mergedCtl`, and
`consumeDirty_eq` says what it leaves. -/
theorem configReply : Obligations.ConfigReply := by
  unfold Obligations.ConfigReply
  intro b tok last _ hturn hstage herror hz hq d g u
  have hchoose : chooseReply (atReply b) = .config := by
    rw [chooseReply_of_no_request hstage herror, if_neg (not_not.2 hz), if_neg (not_not.2 hq)]
  obtain ⟨g', d', hS, hcommon, hdirty, hmomentary⟩ :=
    consumeDirty_eq b.cfg.selfClearing (atReply b).S
  have hchg : (atReply b).S.chg = g := by rw [atReply_S]
  have happlied : (atReply b).S.dirty = d := by rw [atReply_S]
  rw [hchg] at hcommon hdirty hmomentary
  rw [happlied] at hdirty hmomentary
  obtain ⟨hm, hk⟩ := merged_atReply b
  refine ⟨mergedCommon b.S, mergedCtl b.S, g', d', rfl, rfl, rfl, rfl, rfl, rfl, rfl, rfl, rfl, rfl,
    rfl, rfl, rfl, rfl, decide_eq_true_iff, ?reply, ?dirtyAfter, hcommon, hmomentary⟩
  case reply =>
    rw [closeFrame_of_turn hturn, replyOf, hchoose, replyBody, replySession, hS, hm, hk]
    rfl
  case dirtyAfter =>
    intro f
    change isDirty d' f = true ↔ f ∈ b.cfg.selfClearing ∧ isDirty d f = true ∧ _
    rw [hdirty f, Bool.and_eq_true, Bool.and_eq_true, decide_eq_true_iff, and_assoc]

end Sys2Proof.Machine
end

section
/-! The stage and its events (10_state.md R22, 60_exceptions.md R255 to R257): each part of a transaction
makes at most one transition, and announces it. -/

namespace Sys2Proof.Machine

/-! The stages of a trace. -/

@[simp] theorem stageEvents_nil : stageEvents [] = [] := rfl

@[simp] theorem stageEvents_append (l m : List Output) :
    stageEvents (l ++ m) = stageEvents l ++ stageEvents m :=
  List.filterMap_append

@[simp] theorem stageEvents_cons_rawRx (f : Frame) (l : List Output) :
    stageEvents (.evt (.rawRx f) :: l) = stageEvents l := rfl

@[simp] theorem stageEvents_sent (c : Cfg) (r : Packet) : stageEvents (sent c r) = [] := rfl

theorem stageEvents_of_isDeferred {o : Output} (h : o.isDeferred = true) :
    stageEvents [o] = [] := by
  cases o with
  | evt e => cases e <;> first | rfl | cases h
  | tx d => cases h
  | cmdAccept b => cases h

/-- The deferred notification announces no stage. -/
theorem stageEvents_notified_of_advances {s t : State} (h : Advances s t)
    (hs : s.work.pending = none) : stageEvents (notified t.work) = [] := by
  obtain hnone | ⟨o, ho, hdeferred⟩ := notified_of_advances h hs
  · rw [hnone, stageEvents_nil]
  · rw [ho, stageEvents_of_isDeferred hdeferred]

theorem stagePath_append {a b c : Stage} {l m : List Stage} (hl : stagePath a l b)
    (hm : stagePath b m c) : stagePath a (l ++ m) c := by
  induction l generalizing a with
  | nil => exact (show a = b from hl) ▸ hm
  | cons x l ih => exact ⟨hl.1, ih hl.2⟩

/-! One transition. -/

/-- From `s` to `t` the stage stays and nothing is put out, or one allowed transition is made and
announced. -/
def StageMove (s t : State) : Prop :=
  t.S.stage = s.S.stage ∧ t.ports = s.ports ∨
    ∃ st f, stageMayBecome s.S.stage st = true ∧ t.S.stage = st ∧
      t.ports = { s.ports with out := s.ports.out ++ [.evt (.stageChanged st f)] }

theorem StageMove.refl (s : State) : StageMove s s := .inl ⟨rfl, rfl⟩

theorem stageMove_stageSet {s t : State} {st : Stage} (hmay : stageMayBecome s.S.stage st = true)
    (hports : t.ports = s.ports) : StageMove s (stageSet st t) :=
  .inr ⟨st, t.S.features, hmay, rfl, by rw [stageSet_ports, hports]⟩

/-- A move puts out the events of its path, of one stage at most. -/
theorem StageMove.path {s t : State} (h : StageMove s t) :
    ∃ outs, t.ports = { s.ports with out := s.ports.out ++ outs } ∧
      stagePath s.S.stage (stageEvents outs) t.S.stage ∧ (stageEvents outs).length ≤ 1 := by
  obtain ⟨hstage, hports⟩ | ⟨st, f, hmay, hstage, hports⟩ := h
  · exact ⟨[], by rw [hports, List.append_nil], hstage.symm, Nat.zero_le 1⟩
  · exact ⟨[.evt (.stageChanged st f)], hports, ⟨hmay, hstage.symm⟩, le_refl 1⟩

/-- From the end of the discovery a move leads to `Complete` only. -/
theorem StageMove.stage_of_afterDiscovery {s t : State} (h : StageMove s t) (hs : afterDiscovery s.S.stage) :
    t.S.stage = s.S.stage ∨ t.S.stage = .complete := by
  obtain ⟨hstage, _⟩ | ⟨st, _, hmay, hstage, _⟩ := h
  · exact .inl hstage
  · right
    rw [hstage]
    obtain hs | hs := hs <;> rw [hs] at hmay <;> cases st <;> first | rfl | cases hmay

/-! The parts of a received frame. -/

theorem stageMove_afterStep1 (raw : Frame) (role : Role) (s : State) :
    StageMove (afterStart raw s) (afterStep1 raw role s) := by
  by_cases hs : s.S.stage = .findNextControllerRx
  · rw [afterStep1, if_pos hs]
    refine stageMove_stageSet ?_ rfl
    rw [afterStart_S, hs]
    split <;> rfl
  · rw [afterStep1_of_stage_ne hs]
    exact .refl _

theorem stageMove_detectFeatures (flags : BitVec 2) (s : State) :
    StageMove s (detectFeatures flags s) := by
  rw [detectFeatures_eq]
  split_ifs with hs
  · exact stageMove_stageSet (by rw [hs]; rfl) rfl
  · exact stageMove_stageSet (by rw [hs]; rfl) rfl
  · exact .refl s

/-- The error flag and the merge leave the stage, the ports and the token destination. -/
theorem onConfigIU_frame (common : ConfigCommon) (iu : IUSub) (s : State) :
    (onConfigIU common iu s).S.stage = (detectFeatures iu.unknownFlags s).S.stage ∧
      (onConfigIU common iu s).ports = (detectFeatures iu.unknownFlags s).ports ∧
      (onConfigIU common iu s).S.nextTok = (detectFeatures iu.unknownFlags s).S.nextTok := by
  rw [onConfigIU]
  generalize detectFeatures iu.unknownFlags s = d
  unfold noteErrorFlag
  split <;> exact ⟨rfl, rfl, rfl⟩

theorem stageMove_onConfigIU (common : ConfigCommon) (iu : IUSub) (s : State) :
    StageMove s (onConfigIU common iu s) := by
  obtain ⟨hstage, hports, _⟩ := onConfigIU_frame common iu s
  rw [StageMove, hstage, hports]
  exact stageMove_detectFeatures iu.unknownFlags s

theorem stageMove_onFeaturesIU (f : Features) (s : State) : StageMove s (onFeaturesIU f s) := by
  by_cases hs : s.S.stage = .featureRequest
  · rw [onFeaturesIU_of_stage_eq hs]
    refine stageMove_stageSet ?_ rfl
    rw [hs]
    split <;> rfl
  · rw [onFeaturesIU_of_stage_ne hs]
    exact .refl s

theorem stageMove_onZoneFunctionIU (b : ZoneFunctionBody) (s : State) :
    StageMove s (onZoneFunctionIU b s) := by
  unfold onZoneFunctionIU
  split_ifs with hs
  · exact stageMove_stageSet (by rw [hs.2]; rfl) rfl
  · exact .refl s

theorem stageMove_onZoneConfigIU (z : ZoneFields) (s : State) :
    StageMove s (onZoneConfigIU z s) := by
  cases hv : s.cfg.variant with
  | legacy =>
    rw [onZoneConfigIU_of_legacy hv]
    exact .refl s
  | zoned =>
    rw [onZoneConfigIU_of_zoned hv]
    split_ifs with hs
    · exact stageMove_stageSet (by rw [hs]; rfl) rfl
    · exact .inl ⟨rfl, rfl⟩

/-- Step 2 of every received-frame row. -/
theorem stageMove_step2Of (i : Instr) (s : State) : StageMove s (step2Of i s) := by
  cases i
  case configIU common iu => exact stageMove_onConfigIU common iu s
  case featuresIU f => exact stageMove_onFeaturesIU f s
  case zoneConfigIU z => exact stageMove_onZoneConfigIU z s
  case zoneFunctionIU b => exact stageMove_onZoneFunctionIU b s
  all_goals exact .inl ⟨rfl, rfl⟩

theorem stageMove_atReply (b : State) : StageMove b (atReply b) := by
  unfold atReply
  split_ifs with hs
  · exact stageMove_stageSet (by rw [hs]; rfl) rfl
  · exact .refl b

/-- Step 2 leaves the next token destination. -/
theorem step2Of_nextTok (i : Instr) (s : State) : (step2Of i s).S.nextTok = s.S.nextTok := by
  cases i
  case configIU common iu =>
    obtain ⟨_, _, htok⟩ := onConfigIU_frame common iu s
    rw [step2Of, htok, detectFeatures_eq]
    split_ifs <;> rfl
  case featuresIU f =>
    show (onFeaturesIU f s).S.nextTok = _
    unfold onFeaturesIU
    split <;> rfl
  case zoneConfigIU z =>
    show (onZoneConfigIU z s).S.nextTok = _
    cases hv : s.cfg.variant with
    | legacy => rw [onZoneConfigIU_of_legacy hv]
    | zoned => rw [onZoneConfigIU_of_zoned hv]; split <;> rfl
  case zoneFunctionIU b =>
    show (onZoneFunctionIU b s).S.nextTok = _
    unfold onZoneFunctionIU
    split <;> rfl
  all_goals rfl

/-! The whole of a received frame. -/

/-- What steps 3 and 4 do to the stage, the token destination and the trace: the discovery action at
most, from `FindNextControllerTx` only, and then outputs that announce no stage. -/
theorem closeFrame_stage (tok : Address) (last : Bool) {b : State}
    (hnote : stageEvents (notified b.work) = []) :
    ∃ a tail, StageMove b a ∧ (b.S.stage ≠ .findNextControllerTx → a = b) ∧
      (closeFrame tok last b).S.stage = a.S.stage ∧
      (closeFrame tok last b).S.nextTok = a.S.nextTok ∧
      (closeFrame tok last b).ports.out = a.ports.out ++ tail ∧ stageEvents tail = [] := by
  by_cases hturn : ownsTurn b.cfg tok last
  · obtain ⟨g, d, zd, q, hS, _⟩ := replySession_eq b.cfg (atReply b).S (chooseReply (atReply b))
    refine ⟨atReply b, sent b.cfg (replyOf (atReply b)) ++ notified b.work, stageMove_atReply b,
      atReply_of_stage_ne, ?_⟩
    rw [closeFrame_of_turn hturn, hS]
    exact ⟨rfl, rfl, by simp, by simp [hnote]⟩
  · refine ⟨b, notified b.work, .refl b, fun _ => rfl, ?_⟩
    rw [closeFrame_of_noTurn hturn]
    exact ⟨rfl, rfl, rfl, hnote⟩

/-- After the end of the discovery, step 2 does not lead to `FindNextControllerTx`. -/
theorem StageMove.stage_ne_of_afterDiscovery {d b : State} (h : StageMove d b)
    (hd : afterDiscovery d.S.stage) : b.S.stage ≠ .findNextControllerTx := by
  obtain hstage | hstage := h.stage_of_afterDiscovery hd
  · rw [hstage]
    obtain hd | hd := hd <;> rw [hd] <;> decide
  · rw [hstage]; decide

/-- A received frame moves the stage twice at most: step 1 moves it in `FindNextControllerRx` only, and
then there is no discovery action. -/
theorem stagePath_of_received {i : Instr} {h : RxHead} {p : Packet}
    (hi : i.received = some (h, p)) (s : State) :
    ∃ t outs, exec i s = .next t ∧ t.ports.out = s.ports.out ++ outs ∧
      stagePath s.S.stage (stageEvents outs) t.S.stage ∧ (stageEvents outs).length ≤ 2 := by
  have hnote := stageEvents_notified_of_advances (advances_steps12 hi s) rfl
  have hexec := exec_of_received hi s
  rw [step1Of_of_received hi] at hnote hexec
  generalize rawOf s.cfg p h.ignored = raw at hnote hexec
  have hmove₁ := stageMove_afterStep1 raw p.src.role s
  have hmove₂ := stageMove_step2Of i (afterStep1 raw p.src.role s)
  generalize step2Of i (afterStep1 raw p.src.role s) = b at hnote hexec hmove₂
  obtain ⟨a, tail, hmove₃, hsame, hstage, _, hout, htail⟩ :=
    closeFrame_stage (tokenOf h) h.last hnote
  obtain ⟨outs₁, hports₁, hpath₁, hlen₁⟩ := hmove₁.path
  obtain ⟨outs₂, hports₂, hpath₂, hlen₂⟩ := hmove₂.path
  obtain ⟨outs₃, hports₃, hpath₃, hlen₃⟩ := hmove₃.path
  have hlen : (stageEvents outs₁).length + (stageEvents outs₂).length +
      (stageEvents outs₃).length ≤ 2 := by
    by_cases hs : s.S.stage = .findNextControllerRx
    · have hstay := hsame (hmove₂.stage_ne_of_afterDiscovery (afterStep1_S_stage_of_stage_eq hs _ _))
      have hnone : outs₃ = [] := by simpa [hstay] using congrArg Ports.out hports₃
      rw [hnone, stageEvents_nil, List.length_nil]
      omega
    · have hnone : outs₁ = [] := by
        simpa [afterStep1_of_stage_ne hs] using congrArg Ports.out hports₁
      rw [hnone, stageEvents_nil, List.length_nil]
      omega
  refine ⟨_, .evt (.rawRx raw) :: (outs₁ ++ outs₂ ++ outs₃ ++ tail), hexec, ?_, ?_, ?_⟩
  · simp [hout, hports₃, hports₂, hports₁]
  · rw [hstage]
    simpa [htail] using stagePath_append (stagePath_append hpath₁ hpath₂) hpath₃
  · simpa [htail, Nat.add_assoc] using hlen

/-- A command word leaves the stage and announces none, REINIT aside. -/
theorem stage_of_decodeCmd (w : BitVec 32) (s : State) :
    ∃ t outs, exec (decodeCmd w) s = .next t ∧ t.ports.out = s.ports.out ++ outs ∧
      (t.S.stage = s.S.stage ∧ stageEvents outs = [] ∨
        (∃ o, decodeCmd w = .reinit o) ∧ stageEvents outs = [.detectFeatureSupport] ∧
          t.S.stage = .detectFeatureSupport) := by
  obtain ⟨o, hw⟩ | ⟨t, ⟨accepted, hexec, hout, _⟩, hlearned⟩ := answers_decodeCmd w s
  · rw [hw]
    exact ⟨_, [.evt (.stageChanged .detectFeatureSupport {}), .cmdAccept true], rfl,
      List.append_assoc _ _ _, .inr ⟨⟨o, rfl⟩, rfl, rfl⟩⟩
  · exact ⟨t, [.cmdAccept accepted], hexec, by simpa using hout,
      .inl ⟨congrArg Prod.fst hlearned, rfl⟩⟩

/-- Settles O25: step 1 puts out the two events and writes the destination; the stage it leads to is left
for `Complete` only, so that no discovery action writes the destination again. -/
theorem neighbourDiscovery : Obligations.NeighbourDiscovery := by
  unfold Obligations.NeighbourDiscovery
  intro s i h p hi hs
  have hnote := stageEvents_notified_of_advances (advances_steps12 hi s) rfl
  have hexec := exec_of_received hi s
  rw [step1Of_of_received hi] at hnote hexec
  generalize rawOf s.cfg p h.ignored = raw at hnote hexec ⊢
  have hend := afterStep1_S_stage_of_stage_eq hs raw p.src.role
  have hS := afterStep1_S_of_stage_eq hs raw p.src.role
  have hports₁ : (afterStep1 raw p.src.role s).ports.out = s.ports.out ++ [.evt (.rawRx raw)] ++
      [.evt (.stageChanged
        (if s.cfg.variant = .zoned ∧ s.S.features.zones = true then .zoneRequestActive
          else .complete) s.S.features)] := by
    rw [afterStep1, if_pos hs]
    rfl
  generalize afterStep1 raw p.src.role s = d at hnote hexec hend hS hports₁
  have hmove := stageMove_step2Of i d
  obtain ⟨outs, hports₂, _⟩ := hmove.path
  obtain ⟨a, tail, _, hsame, hstage, htok, hout, _⟩ := closeFrame_stage (tokenOf h) h.last hnote
  rw [hsame (hmove.stage_ne_of_afterDiscovery hend)] at hstage htok hout
  refine ⟨_, outs ++ tail, hexec, ?_, ?_, ?_⟩
  · rw [htok, step2Of_nextTok, hS]
  · simp [hout, hports₂, hports₁]
  · rw [hstage]
    obtain hstay | hcomplete := hmove.stage_of_afterDiscovery hend
    · rw [hstay, hS]
      by_cases hzones : s.cfg.variant = .zoned ∧ s.S.features.zones = true
      · exact .inr ⟨if_pos hzones, hzones⟩
      · exact .inl (if_neg hzones)
    · exact .inl hcomplete

end Sys2Proof.Machine

namespace Sys2Proof

open Machine

/-- Settles O36: by what the step takes: a frame, a command or nothing. -/
theorem stagePath : Obligations.StagePath := by
  unfold Obligations.StagePath
  intro s t hrst hstep
  cases hrx : s.ports.rx with
  | cons item rest =>
    rw [step_of_fetch_some hrst (fetch_of_rx_cons hrx)] at hstep
    obtain ⟨t', outs, hexec, hout, hpath⟩ :=
      stagePath_of_received (received_decodeLogicalFrame s.cfg _ item.last)
        { s with ports := { s.ports with rx := rest } }
    cases hstep.symm.trans hexec
    exact ⟨outs, hout, .inl hpath⟩
  | nil =>
    cases hcmd : s.ports.cmd with
    | cons w rest =>
      rw [step_of_fetch_some hrst (fetch_of_rx_nil_of_cmd_cons hrx hcmd)] at hstep
      obtain ⟨t', outs, hexec, hout, ⟨hstage, hevents⟩ | ⟨hreinit, hevents, hstage⟩⟩ :=
        stage_of_decodeCmd w { s with ports := { s.ports with cmd := rest } }
      · cases hstep.symm.trans hexec
        refine ⟨outs, hout, .inl ?_⟩
        rw [hevents]
        exact ⟨hstage.symm, Nat.zero_le 2⟩
      · cases hstep.symm.trans hexec
        obtain ⟨o, hw⟩ := hreinit
        exact ⟨outs, hout, .inr ⟨rfl, ⟨w, rest, o, rfl, hw⟩, hevents, hstage⟩⟩
    | nil =>
      rw [step_of_fetch_none hrst (fetch_of_rx_nil_of_cmd_nil hrx hcmd)] at hstep
      cases hstep
      exact ⟨[], (List.append_nil _).symm, .inl ⟨rfl, Nat.zero_le 2⟩⟩

end Sys2Proof
end

section
/-! The codes on the EVT port (30_encoding.md R102): those of the outputs of a received frame, in their
order. -/

namespace Sys2Proof.Machine

/-- The codes on the EVT port for a trace. -/
def evtCodes (outs : List Output) : List (BitVec 3) := (evtPort outs).map Prod.fst

theorem evtCodes_append (l m : List Output) : evtCodes (l ++ m) = evtCodes l ++ evtCodes m := by
  rw [evtCodes, evtPort_append, List.map_append]
  rfl

theorem evtCodes_of_isStageChanged {l : List Output}
    (h : ∀ o ∈ l, Output.isStageChanged o = true) : ∀ c ∈ evtCodes l, c = 2 := by
  intro c hc
  obtain ⟨⟨_, e⟩, he, rfl⟩ := List.mem_map.1 hc
  obtain ⟨o, ho, hevt⟩ := List.mem_filterMap.1 he
  obtain ⟨st, f, hchanged⟩ := onEvt_of_isStageChanged (h o ho)
  rw [hchanged] at hevt
  cases hevt
  rfl

/-- The end of a trace that defers one notification at most. -/
theorem evtCodes_of_note {note : List Output}
    (h : note = [] ∨ ∃ o, note = [o] ∧ Output.isDeferred o = true) :
    evtCodes note = [] ∨ ∃ c : BitVec 3, evtCodes note = [c] ∧ 3 ≤ c.toNat := by
  obtain rfl | ⟨o, rfl, ho⟩ := h
  · exact .inl rfl
  · obtain ⟨c, e, hevt, hc⟩ := onEvt_of_isDeferred ho
    exact .inr ⟨c, by simp [evtCodes, evtPort, hevt], hc⟩

/-- Settles O60: the code of each kind by `Event.code`, and the codes of the outputs that `outputOrder`
puts in order. -/
theorem eventCodes : Obligations.EventCodes := by
  unfold Obligations.EventCodes
  refine ⟨?kinds, ?frame⟩
  case kinds =>
    intros
    rw [evtPort_append]
    rfl
  case frame =>
    intro s i h p hi
    obtain ⟨t, stages, reply, note, hexec, hout, hstages, hnoTurn, hturn, hnote, _⟩ :=
      outputOrder s i h p hi
    refine ⟨t, evtCodes stages, evtCodes reply, evtCodes note, hexec, ?_,
      evtCodes_of_isStageChanged hstages, fun hno => ?_, fun hown => ?_, evtCodes_of_note hnote⟩
    · rw [hout, ← evtCodes_append, ← evtCodes_append]
      exact evtCodes_append _ _
    · rw [hnoTurn hno]
      rfl
    · obtain ⟨l, hreply⟩ := hturn hown
      rw [hreply]
      rfl

end Sys2Proof.Machine
end

section
/-! The temperature conversions as instructions (40_codec_primitives.md R115, R116): which temperatures
survive the way to the field and back. -/

namespace Sys2Proof.Machine

/-- The result is all that a conversion writes, so equal next states have equal results. -/
theorem next_withResult_temp_inj {s : State} {t u : Temp} :
    (Host.Outcome.next (withResult (.temp t) s) : Host.Outcome State Fault Refusal) =
      .next (withResult (.temp u) s) ↔ t.toNat = u.toNat := by
  refine ⟨fun h => ?_, fun h => by rw [BitVec.eq_of_toNat_eq h]⟩
  have hresult := congrArg (fun x => x.work.result) (Host.Outcome.next.inj h)
  cases hresult
  rfl

theorem tempPackZoned_tempUnpackZoned (z : BitVec 7) :
    tempPackZoned (tempUnpackZoned z) = z.setWidth 17 := by
  have hlt := z.isLt
  apply BitVec.eq_of_toNat_eq
  rw [tempPackZoned_toNat, tempUnpackZoned_toNat, BitVec.toNat_setWidth]
  omega

theorem tempPackLegacy_tempUnpackLegacy (l : BitVec 6) :
    tempPackLegacy (tempUnpackLegacy l) = l.setWidth 17 := by
  have hlt := l.isLt
  apply BitVec.eq_of_toNat_eq
  rw [tempPackLegacy_toNat, tempUnpackLegacy_toNat, BitVec.toNat_setWidth]
  omega

/-- 40_codec_primitives.md R115: a half degree below the field's end survives. -/
theorem tempUnpackZoned_tempPackZoned_iff (t : Temp) :
    (tempUnpackZoned ((tempPackZoned t).setWidth 7)).toNat = t.toNat ↔
      t.toNat % 128 = 0 ∧ t.toNat < 16320 := by
  rw [tempUnpackZoned_toNat, BitVec.toNat_setWidth, tempPackZoned_toNat]
  omega

/-- 40_codec_primitives.md R116: a degree below the field's end survives. -/
theorem tempUnpackLegacy_tempPackLegacy_iff (t : Temp) :
    (tempUnpackLegacy ((tempPackLegacy t).setWidth 6)).toNat = t.toNat ↔
      t.toNat % 256 = 0 ∧ t.toNat < 16256 := by
  rw [tempUnpackLegacy_toNat, BitVec.toNat_setWidth, tempPackLegacy_toNat]
  omega

/-- Settles O13: the conversions as numbers, and the two ways back. -/
theorem temperatures : Obligations.Temperatures := by
  unfold Obligations.Temperatures
  intro s t z l
  refine ⟨tempPackZoned t, tempPackLegacy t, tempUnpackZoned z, tempUnpackLegacy l, rfl,
    tempPackZoned_toNat t, rfl, tempUnpackZoned_toNat z, rfl, tempPackLegacy_toNat t, rfl,
    tempUnpackLegacy_toNat l, ?_, ?_, ?_, ?_, ?_, ?_⟩
  · rw [← tempPackZoned_tempUnpackZoned]; rfl
  · rw [← tempPackLegacy_tempUnpackLegacy]; rfl
  · exact next_withResult_temp_inj.trans (tempUnpackZoned_tempPackZoned_iff t)
  · exact next_withResult_temp_inj.trans (tempUnpackLegacy_tempPackLegacy_iff t)
  · rw [tempPackZoned_toNat]; omega
  · rw [tempPackLegacy_toNat]; omega

end Sys2Proof.Machine
end

section
/-! The reset transaction (70_reset_and_hazards.md R290, R291), and words of every family decoded. -/

namespace Sys2Proof.Machine

/-- A reset request goes before what stands on the other ports (log entry 4). -/
theorem step_of_rst {s : State} {c : Cfg} (hrst : s.ports.rst = some c) :
    step s = stepReset c s := by
  simp only [step, hrst]

theorem stepReset_of_wellFormed {c : Cfg} (hc : c.wellFormed = true) (s : State) :
    stepReset c s = .next (resetTransaction c s) := by
  rw [stepReset, if_pos hc]

theorem stepReset_of_not_wellFormed {c : Cfg} (hc : c.wellFormed = false) (s : State) :
    stepReset c s = .refused .illFormedConfig := by
  rw [stepReset, hc]
  rfl

/-- Settles O57: the step is the reset transaction, whose registers are `Session.reset`. -/
theorem stepResets : Obligations.StepResets := by
  unfold Obligations.StepResets
  intro s c hrst
  refine ⟨fun hc => ?_, fun hc => ?_⟩
  · rw [step_of_rst hrst, stepReset_of_wellFormed hc]
    rfl
  · rw [step_of_rst hrst, stepReset_of_not_wellFormed hc]

/-- Settles O7: the three frames by evaluation, the command words by the row of their operation code. -/
theorem wordsDecode : Obligations.WordsDecode := by
  unfold Obligations.WordsDecode
  refine ⟨by decide, by decide, by decide, ?setpoint, ?zone, ?function, by decide⟩
  case setpoint => exact (wordsOf_setSetpoint 0x83000012 (by decide)).trans (by decide)
  case zone => exact (wordsOf_setZone 0x0D000103 (by decide)).trans (by decide)
  case function => exact (wordsOf_queueFunction 0x1101020B (by decide)).trans (by decide)

end Sys2Proof.Machine
end

section
/-! The invariant of the machine (Safety.lean `Inv`) holds at reset and is kept by every command: of the
registers that wait to be sent, only checked values are pending. -/

namespace Sys2Proof.Machine

/-! Reset. -/

theorem sessionInv_reset (c : Cfg) : SessionInv c Session.reset where
  queue := Nat.zero_le _
  temperature := Nat.zero_le _
  setpoint h := absurd h (by decide)
  mode h := absurd h (by decide)
  fanSpeed h := absurd h (by decide)
  zoneGroups h := absurd rfl h
  zoneFlags := ⟨rfl, rfl⟩
  unknownFeatures _ := rfl
  zoneStage h := absurd h (by decide)
  token h := absurd h (by decide)
  lastError := rfl
  legacy _ := ⟨rfl, rfl, rfl, rfl, rfl, rfl⟩

theorem inv_resetTransaction {c : Cfg} (hc : c.wellFormed = true) (s : State) :
    Inv (resetTransaction c s) :=
  ⟨hc, rfl, sessionInv_reset c⟩

/-- Settles O59: the reset registers meet the invariant, and the reference configuration is well
formed. -/
theorem invAtReset : Obligations.InvAtReset := by
  unfold Obligations.InvAtReset
  exact ⟨(by decide : (cfgRef .zoned 0).wellFormed = true), rfl, sessionInv_reset _⟩

/-! The pending values (43_host_commands.md R217 to R219). -/

/-- Only checked values wait to be sent. -/
structure PendingOk (d : BitVec 12) (g : Chg) : Prop where
  setpoint : isDirty d .setpoint = true →
    16 ≤ g.common.setpoint.toNat ∧ g.common.setpoint.toNat ≤ 30
  mode : isDirty d .mode = true → 1 ≤ g.common.mode.toNat ∧ g.common.mode.toNat ≤ 5
  fanSpeed : isDirty d .fanSpeed = true → g.common.fanSpeed.toNat ≤ 4

theorem SessionInv.pendingOk {c : Cfg} {S : Session} (h : SessionInv c S) :
    PendingOk S.dirty S.chg :=
  ⟨h.setpoint, h.mode, h.fanSpeed⟩

theorem SessionInv.withPending {c : Cfg} {S : Session} (h : SessionInv c S) {d : BitVec 12}
    {g : Chg} (hp : PendingOk d g) : SessionInv c { S with chg := g, dirty := d } :=
  { h with setpoint := hp.setpoint, mode := hp.mode, fanSpeed := hp.fanSpeed }

/-- A field that is dirty after one is marked was dirty before, or is the marked one. -/
theorem of_isDirty_markDirty {d : BitVec 12} {f x : ConfigField} {P : Prop}
    (hbefore : f ≠ x → isDirty d x = true → P) (hmarked : f = x → P)
    (h : isDirty (markDirty d f) x = true) : P := by
  by_cases hf : f = x
  · exact hmarked hf
  · rw [isDirty_markDirty, decide_eq_false hf, Bool.or_false] at h
    exact hbefore hf h

/-- Another field marked, the checked values as they were. -/
theorem PendingOk.mark {d : BitVec 12} {g g' : Chg} (h : PendingOk d g) {f : ConfigField}
    (hf : f ≠ .setpoint ∧ f ≠ .mode ∧ f ≠ .fanSpeed)
    (hg : g'.common.setpoint = g.common.setpoint ∧ g'.common.mode = g.common.mode ∧
      g'.common.fanSpeed = g.common.fanSpeed) : PendingOk (markDirty d f) g' := by
  obtain ⟨hnotSetpoint, hnotMode, hnotSpeed⟩ := hf
  obtain ⟨hsetpoint, hmode, hspeed⟩ := hg
  exact ⟨of_isDirty_markDirty (fun _ => hsetpoint ▸ h.setpoint) (absurd · hnotSetpoint),
    of_isDirty_markDirty (fun _ => hmode ▸ h.mode) (absurd · hnotMode),
    of_isDirty_markDirty (fun _ => hspeed ▸ h.fanSpeed) (absurd · hnotSpeed)⟩

/-! One of the checked fields marked, with a value that passed its check. -/

theorem PendingOk.markSetpoint {d : BitVec 12} {g : Chg} (h : PendingOk d g) {x : BitVec 7}
    (hx : 16 ≤ x.toNat ∧ x.toNat ≤ 30) :
    PendingOk (markDirty d .setpoint) { g with common := { g.common with setpoint := x } } :=
  ⟨fun _ => hx, of_isDirty_markDirty (fun _ => h.mode) nofun,
    of_isDirty_markDirty (fun _ => h.fanSpeed) nofun⟩

theorem PendingOk.markMode {d : BitVec 12} {g : Chg} (h : PendingOk d g) {x : BitVec 3}
    (hx : 1 ≤ x.toNat ∧ x.toNat ≤ 5) :
    PendingOk (markDirty d .mode) { g with common := { g.common with mode := x } } :=
  ⟨of_isDirty_markDirty (fun _ => h.setpoint) nofun, fun _ => hx,
    of_isDirty_markDirty (fun _ => h.fanSpeed) nofun⟩

theorem PendingOk.markFanSpeed {d : BitVec 12} {g : Chg} (h : PendingOk d g) {x : BitVec 3}
    (hx : x.toNat ≤ 4) :
    PendingOk (markDirty d .fanSpeed) { g with common := { g.common with fanSpeed := x } } :=
  ⟨of_isDirty_markDirty (fun _ => h.setpoint) nofun,
    of_isDirty_markDirty (fun _ => h.mode) nofun, fun _ => hx⟩

theorem inv_pended {s : State} (h : Inv s) {f : ConfigField} {g : Chg → Chg}
    (hp : PendingOk (markDirty s.S.dirty f) (g s.S.chg)) : Inv (pended (dirtyIndex f) g s) :=
  ⟨h.config, h.transients, h.session.withPending hp⟩

/-- 43_host_commands.md R229 to R231: a zone change waits with both group-active flags. -/
theorem inv_zonePended {s : State} (h : Inv s) (hv : s.cfg.variant = .zoned) (k : Nat)
    (g : ZoneFields → ZoneFields) : Inv (zonePended k g s) := by
  refine ⟨h.config, h.transients, { h.session with
    zoneGroups := fun _ => ?_
    zoneFlags := ⟨rfl, rfl⟩
    legacy := fun hlegacy => absurd (hv.symm.trans hlegacy) (by decide) }⟩
  simp [zonePended, isZDirty, zdirtyIndex]

/-! The registers that the other commands write. -/

theorem SessionInv.withHostFields {c : Cfg} {S : Session} (h : SessionInv c S) {t : Temp}
    (ht : t.toNat ≤ 15360) (v : Bool) :
    SessionInv c { S with cur := { S.cur with ctl := ⟨t, v⟩ } } :=
  { h with temperature := ht }

theorem SessionInv.pushFunction {c : Cfg} {S : Session} (h : SessionInv c S)
    (hroom : S.funcq.length ≠ c.funcQueueDepth) (b : FunctionBody) :
    SessionInv c { S with funcq := S.funcq ++ [b] } := by
  have hle := h.queue
  refine { h with queue := ?_ }
  rw [List.length_append, List.length_singleton]
  omega

/-- 43_host_commands.md R232: what waits is kept, and the rest forgotten. -/
theorem SessionInv.reinit {c : Cfg} {S : Session} (h : SessionInv c S) :
    SessionInv c { reinitSession S with stage := .detectFeatureSupport } :=
  { h with
    unknownFeatures := fun _ => rfl
    zoneStage := fun hstage => by cases hstage <;> contradiction
    token := fun htok => by cases htok
    lastError := rfl
    legacy := fun hv => by
      obtain ⟨_, _, hzchg, hzdirty, _⟩ := h.legacy hv
      exact ⟨rfl, rfl, hzchg, hzdirty, rfl, rfl⟩ }

/-! The commands. -/

/-- The instruction completes, in a state that meets the invariant. -/
def EndsInInv (i : Instr) (s : State) : Prop := ∃ t, exec i s = .next t ∧ Inv t

/-- The answer of a command changes nothing that the invariant speaks of. -/
theorem endsInInv_of_answered {i : Instr} {s t : State} {b : Bool}
    (hexec : exec i s = .next (answered b t)) (ht : Inv t) : EndsInInv i s :=
  ⟨_, hexec, ht.config, ht.transients, ht.session⟩

/-- A command keeps the invariant where its effect does; rejected it has none. -/
theorem endsInInv_of_acceptsIff {i : Instr} {ok : Prop} {s t : State} (ha : acceptsIff i ok s t)
    (h : Inv s) (ht : ok → Inv t) : EndsInInv i s := by
  obtain ⟨haccept, hreject⟩ := ha
  by_cases hok : ok
  · exact endsInInv_of_answered (haccept hok) (ht hok)
  · exact endsInInv_of_answered (hreject hok) h

/-- The template of R211 for a field whose value needs no check. -/
theorem endsInInv_unchecked {i : Instr} {s : State} {l : List (Bool × RejectCause)}
    {f : ConfigField} {g : Chg → Chg} (h : Inv s)
    (hexec : exec i s = .next (configCommand l f g s))
    (hf : f ≠ .setpoint ∧ f ≠ .mode ∧ f ≠ .fanSpeed)
    (hg : (g s.S.chg).common.setpoint = s.S.chg.common.setpoint ∧
      (g s.S.chg).common.mode = s.S.chg.common.mode ∧
      (g s.S.chg).common.fanSpeed = s.S.chg.common.fanSpeed) : EndsInInv i s :=
  endsInInv_of_acceptsIff (acceptsIff_configCommand hexec Iff.rfl) h fun _ =>
    inv_pended h (h.session.pendingOk.mark hf hg)

section
variable {s : State} (h : Inv s) (o : Bool)
include h

theorem endsInInv_setSetpoint (d : BitVec 8) : EndsInInv (.setSetpoint o d) s := by
  obtain ⟨ha, _⟩ := setSetpoint s o d
  refine endsInInv_of_acceptsIff ha h fun ⟨_, hlow, hhigh⟩ => ?_
  refine inv_pended (f := .setpoint) h (h.session.pendingOk.markSetpoint ?_)
  rw [← BitVec.setWidth_eq_extractLsb' (by decide), BitVec.toNat_setWidth]
  omega

theorem endsInInv_setMode (m : BitVec 3) : EndsInInv (.setMode o m) s := by
  obtain ⟨ha, _⟩ := setModeAndFanSpeed s o m
  refine endsInInv_of_acceptsIff ha h fun ⟨_, hm⟩ => ?_
  refine inv_pended (f := .mode) h (h.session.pendingOk.markMode ?_)
  obtain ⟨rfl, _⟩ | ⟨rfl, _⟩ | ⟨rfl, _⟩ | ⟨rfl, _⟩ | ⟨rfl, _⟩ := hm <;> decide

theorem endsInInv_setFanSpeed (m : BitVec 3) : EndsInInv (.setFanSpeed o m) s := by
  obtain ⟨_, ha, _⟩ := setModeAndFanSpeed s o m
  refine endsInInv_of_acceptsIff ha h fun ⟨_, hm⟩ => ?_
  refine inv_pended (f := .fanSpeed) h (h.session.pendingOk.markFanSpeed ?_)
  obtain ⟨rfl, _⟩ | ⟨rfl, _⟩ | ⟨rfl, _⟩ | ⟨rfl, _⟩ | ⟨rfl, _⟩ := hm <;> decide

theorem endsInInv_useSensor (v : Bool) : EndsInInv (.useSensor o v) s := by
  obtain ⟨ha, _⟩ := useSensor s o v
  exact endsInInv_of_acceptsIff ha h fun _ =>
    ⟨h.config, h.transients, h.session.withHostFields h.session.temperature v⟩

theorem endsInInv_setCurrentTemperature (t : BitVec 16) :
    EndsInInv (.setCurrentTemperature o t) s := by
  obtain ⟨x, hexec, hx, _⟩ := setCurrentTemperature s o t
  have hle : x.toNat ≤ 15360 := by omega
  exact endsInInv_of_answered hexec ⟨h.config, h.transients, h.session.withHostFields hle _⟩

theorem endsInInv_queueFunction (b : FunctionBody) : EndsInInv (.queueFunction o b) s := by
  obtain ⟨ha, _⟩ := queueFunction s o b
  exact endsInInv_of_acceptsIff ha h fun hroom =>
    ⟨h.config, h.transients, h.session.pushFunction hroom b⟩

theorem endsInInv_reinit : EndsInInv (.reinit o) s := by
  obtain ⟨hexec, _⟩ := reinit s o
  exact endsInInv_of_answered hexec ⟨h.config, h.transients, h.session.reinit⟩

theorem endsInInv_zoneCommands (z : BitVec 4) (v : Bool) :
    EndsInInv (.setZone o z v) s ∧ EndsInInv (.setZoneGroupDay o z v) s ∧
      EndsInInv (.setZoneGroupNight o z v) s := by
  obtain ⟨hzone, _⟩ := setZone s o z v
  obtain ⟨hday, hnight, _⟩ := setZoneGroups s o z v
  exact ⟨endsInInv_of_acceptsIff hzone h fun hok => inv_zonePended h hok.1.1 _ _,
    endsInInv_of_acceptsIff hday h fun hok => inv_zonePended h hok.1 _ _,
    endsInInv_of_acceptsIff hnight h fun hok => inv_zonePended h hok.1 _ _⟩

/-- Every command word keeps the invariant. -/
theorem endsInInv_decodeCmd (w : BitVec 32) : EndsInInv (decodeCmd w) s := by
  apply decodeCmd_induction (P := fun i => EndsInInv i s)
  case setSetpoint => exact endsInInv_setSetpoint h
  case setMode => exact endsInInv_setMode h
  case setFanSpeed => exact endsInInv_setFanSpeed h
  case useSensor => exact endsInInv_useSensor h
  case setCurrentTemperature => exact endsInInv_setCurrentTemperature h
  case queueFunction => exact endsInInv_queueFunction h
  case reinit => exact endsInInv_reinit h
  case setZone => exact fun o z v => (endsInInv_zoneCommands h o z v).1
  case setZoneGroupDay => exact fun o z v => (endsInInv_zoneCommands h o z v).2.1
  case setZoneGroupNight => exact fun o z v => (endsInInv_zoneCommands h o z v).2.2
  case setEnabled | setEconomy | setTestRun | setVerticalSwing | setHorizontalSwing |
      advanceVerticalLouver | advanceHorizontalLouver | resetFilter | maintenance =>
    intros
    exact endsInInv_unchecked h rfl (by decide) ⟨rfl, rfl, rfl⟩
  all_goals exact endsInInv_of_answered (b := false) rfl h

end

end Sys2Proof.Machine
end

section
/-! Every received frame keeps the invariant: each part of its transaction keeps that of the session
registers. -/

namespace Sys2Proof.Machine

/-- Before the discovery the token goes to the indoor unit. -/
theorem SessionInv.nextTok_ne {c : Cfg} {S : Session} (h : SessionInv c S)
    (hs : S.stage = .detectFeatureSupport ∨ S.stage = .featureRequest ∨
      S.stage = .zoneRequestEnabled) : S.nextTok ≠ .controller := by
  intro htok
  have hstage := h.token htok
  obtain hs | hs | hs := hs <;> simp [hs] at hstage

/-! Step 1. -/

theorem sessionInv_afterStep1 {s : State} (h : SessionInv s.cfg s.S) (raw : Frame) (role : Role) :
    SessionInv s.cfg (afterStep1 raw role s).S := by
  by_cases hs : s.S.stage = .findNextControllerRx
  · have hend := afterStep1_S_stage_of_stage_eq hs raw role
    rw [afterStep1_S_of_stage_eq hs] at hend ⊢
    exact { h with
      unknownFeatures := fun hstage => by
        obtain hend | hend := hend <;> rw [hend] at hstage <;> cases hstage <;> contradiction
      zoneStage := fun hstage => by
        by_contra hzones
        rw [if_neg hzones] at hstage
        cases hstage <;> contradiction
      token := fun _ => .inr hend }
  · rw [afterStep1_of_stage_ne hs]
    exact h

/-! Step 2. -/

theorem sessionInv_detectFeatures {s : State} (hc : s.cfg.wellFormed = true)
    (h : SessionInv s.cfg s.S) (flags : BitVec 2) :
    SessionInv s.cfg (detectFeatures flags s).S := by
  by_cases hs : s.S.stage = .detectFeatureSupport
  · have htok := h.nextTok_ne (.inl hs)
    rw [detectFeatures_S_of_stage_eq hs]
    split
    · exact { h with
        unknownFeatures := fun hstage => by cases hstage <;> contradiction
        zoneStage := fun hstage => by cases hstage <;> contradiction
        token := (absurd · htok)
        legacy := fun hv => ⟨defaultFeatures_zones hc, (h.legacy hv).2⟩ }
    · exact { h with
        unknownFeatures := fun _ => h.unknownFeatures (.inl hs)
        zoneStage := fun hstage => by cases hstage <;> contradiction
        token := (absurd · htok) }
  · rw [detectFeatures_of_stage_ne hs]
    exact h

/-- 42_fsm_rx.md R164 and R165: the record and the flag are those of the same Config. -/
theorem onConfigIU_S_eq (common : ConfigCommon) (iu : IUSub) (s : State) :
    (onConfigIU common iu s).S = { (detectFeatures iu.unknownFlags s).S with
      cur := ⟨common, iu, (detectFeatures iu.unknownFlags s).S.cur.ctl⟩
      lastError := iu.error } := by
  rw [onConfigIU, mergeConfig]
  simp only [State.withWork_S, State.withS_S, noteErrorFlag_S]

theorem sessionInv_onConfigIU {s : State} (hc : s.cfg.wellFormed = true)
    (h : SessionInv s.cfg s.S) (common : ConfigCommon) (iu : IUSub) :
    SessionInv s.cfg (onConfigIU common iu s).S := by
  have hdetect := sessionInv_detectFeatures hc h iu.unknownFlags
  rw [onConfigIU_S_eq]
  exact { hdetect with lastError := rfl }

/-- The features of a decoded frame have no zones in the Legacy variant (41_codec_frames.md R135). -/
theorem features_zones_of_wellFormed {c : Cfg} {h : RxHead} {f : Features}
    (hwf : (Instr.featuresIU h f).wellFormed c = true) (hv : c.variant = .legacy) :
    f.zones = false := by
  rw [wellFormed_of_received rfl, Bool.and_eq_true, Packet.canonical, Bool.and_eq_true] at hwf
  obtain ⟨⟨_, hbody⟩, _⟩ := hwf
  have hkind : packetKind c (h.packet .indoorUnit typeFeatures (.features f)) = .features := rfl
  rw [Packet.bodyCanonical, hkind] at hbody
  simpa [RxHead.packet, hv] using hbody

theorem sessionInv_onFeaturesIU {s : State} (h : SessionInv s.cfg s.S) {f : Features}
    (hf : s.cfg.variant = .legacy → f.zones = false) :
    SessionInv s.cfg (onFeaturesIU f s).S := by
  by_cases hs : s.S.stage = .featureRequest
  · rw [onFeaturesIU_S_of_stage_eq hs]
    exact { h with
      unknownFeatures := fun hstage => by
        split at hstage <;> cases hstage <;> contradiction
      zoneStage := fun hstage => by
        by_contra hzones
        rw [← zonesNegotiated_iff] at hzones
        rw [if_neg hzones] at hstage
        cases hstage <;> contradiction
      token := (absurd · (h.nextTok_ne (.inr (.inl hs))))
      legacy := fun hv => ⟨hf hv, (h.legacy hv).2⟩ }
  · rw [onFeaturesIU_of_stage_ne hs]
    exact h

theorem sessionInv_onZoneFunctionIU {s : State} (h : SessionInv s.cfg s.S) (b : ZoneFunctionBody) :
    SessionInv s.cfg (onZoneFunctionIU b s).S := by
  by_cases hs : s.S.stage = .zoneRequestEnabled
  · have hv := (h.zoneStage (.inl hs)).1
    rw [onZoneFunctionIU_S_of_stage_eq hv hs]
    exact { h with
      unknownFeatures := fun hstage => by cases hstage <;> contradiction
      zoneStage := fun hstage => by cases hstage <;> contradiction
      token := (absurd · (h.nextTok_ne (.inr (.inr hs))))
      legacy := fun hlegacy => absurd (hv.symm.trans hlegacy) (by decide) }
  · rw [onZoneFunctionIU_of_stage_ne hs]
    exact h

theorem sessionInv_onZoneConfigIU {s : State} (h : SessionInv s.cfg s.S) (z : ZoneFields) :
    SessionInv s.cfg (onZoneConfigIU z s).S := by
  cases hv : s.cfg.variant with
  | legacy =>
    rw [onZoneConfigIU_of_legacy hv]
    exact h
  | zoned =>
    have hstored : SessionInv s.cfg { s.S with zcur := z } :=
      { h with legacy := fun hlegacy => absurd (hv.symm.trans hlegacy) (by decide) }
    rw [onZoneConfigIU_of_zoned hv]
    split
    · exact { hstored with
        unknownFeatures := fun hstage => by cases hstage <;> contradiction
        zoneStage := fun hstage => by cases hstage <;> contradiction
        token := fun _ => .inr (.inr rfl) }
    · exact hstored

/-- Step 2 of every well-formed row. -/
theorem sessionInv_step2Of {i : Instr} {s : State} (hc : s.cfg.wellFormed = true)
    (hwf : i.wellFormed s.cfg = true) (h : SessionInv s.cfg s.S) :
    SessionInv s.cfg (step2Of i s).S := by
  cases i
  case configIU common iu => exact sessionInv_onConfigIU hc h common iu
  case featuresIU f => exact sessionInv_onFeaturesIU h (features_zones_of_wellFormed hwf)
  case zoneConfigIU z => exact sessionInv_onZoneConfigIU h z
  case zoneFunctionIU b => exact sessionInv_onZoneFunctionIU h b
  all_goals exact h

/-! Step 3. -/

theorem sessionInv_atReply {b : State} (h : SessionInv b.cfg b.S) :
    SessionInv b.cfg (atReply b).S := by
  by_cases hs : b.S.stage = .findNextControllerTx
  · rw [atReply_of_stage_eq hs]
    exact { h with
      unknownFeatures := fun hstage => by cases hstage <;> contradiction
      zoneStage := fun hstage => by cases hstage <;> contradiction
      token := fun _ => .inl rfl }
  · rw [atReply_of_stage_ne hs]
    exact h

/-- 42_fsm_rx.md R190, R191: what is dirty after a Config reply was dirty before it. -/
theorem SessionInv.consumeDirty {c : Cfg} {S : Session} (h : SessionInv c S)
    (l : List ConfigField) : SessionInv c (consumeDirty l S) := by
  obtain ⟨g, d, hS, hcommon, hdirty, _⟩ := consumeDirty_eq l S
  have hbefore : ∀ f, isDirty d f = true → isDirty S.dirty f = true := by
    intro f hf
    rw [hdirty f, Bool.and_eq_true, Bool.and_eq_true] at hf
    exact hf.1.2
  rw [hS]
  refine h.withPending ⟨fun hf => ?_, fun hf => ?_, fun hf => ?_⟩ <;> rw [hcommon]
  · exact h.setpoint (hbefore _ hf)
  · exact h.mode (hbefore _ hf)
  · exact h.fanSpeed (hbefore _ hf)

theorem SessionInv.replySession {c : Cfg} {S : Session} (h : SessionInv c S) (r : Reply) :
    SessionInv c (replySession c S r) := by
  cases r
  case zoneWrite =>
    exact { h with
      zoneGroups := fun hdirty => absurd rfl hdirty
      legacy := fun hv => by
        obtain ⟨hzones, hzcur, hzchg, _, henabled⟩ := h.legacy hv
        exact ⟨hzones, hzcur, hzchg, rfl, henabled⟩ }
  case function =>
    have hlength : S.funcq.tail.length ≤ S.funcq.length := by
      rw [List.length_tail]
      omega
    exact { h with queue := hlength.trans h.queue }
  case config => exact h.consumeDirty c.selfClearing
  all_goals exact h

/-- Steps 3 and 4. -/
theorem inv_closeFrame {b : State} (hc : b.cfg.wellFormed = true) (h : SessionInv b.cfg b.S)
    (tok : Address) (last : Bool) : Inv (closeFrame tok last b) := by
  by_cases hturn : ownsTurn b.cfg tok last
  · rw [closeFrame_of_turn hturn]
    exact ⟨by rwa [afterReply_cfg, atReply_cfg], rfl, by
      rw [afterReply_cfg, atReply_cfg]; exact (sessionInv_atReply h).replySession _⟩
  · rw [closeFrame_of_noTurn hturn]
    exact ⟨hc, rfl, h⟩

/-- A well-formed row keeps the invariant. -/
theorem endsInInv_of_received {i : Instr} {h : RxHead} {p : Packet}
    (hi : i.received = some (h, p)) {s : State} (hwf : i.wellFormed s.cfg = true) (hs : Inv s) :
    EndsInInv i s := by
  have hcfg : (step2Of i (step1Of i s)).cfg = s.cfg := (advances_steps12 hi s).cfg
  have hcfg₁ : (step1Of i s).cfg = s.cfg := by rw [step1Of_of_received hi, afterStep1_cfg]
  have hstep1 : SessionInv s.cfg (step1Of i s).S := by
    rw [step1Of_of_received hi]
    exact sessionInv_afterStep1 hs.session _ _
  have hstep2 : SessionInv s.cfg (step2Of i (step1Of i s)).S := by
    rw [← hcfg₁] at hstep1 hwf ⊢
    exact sessionInv_step2Of (by rw [hcfg₁]; exact hs.config) hwf hstep1
  exact ⟨_, exec_of_received hi s,
    inv_closeFrame (by rw [hcfg]; exact hs.config) (by rw [hcfg]; exact hstep2) _ _⟩

theorem Inv.withPorts {s : State} (h : Inv s) (ports : Ports) : Inv { s with ports := ports } :=
  ⟨h.config, h.transients, h.session⟩

/-- A step that runs an instruction which keeps the invariant. -/
theorem inv_of_step {s s' t : State} {i : Instr} (hstep : step s = .next t)
    (hrun : step s = exec i s') (h : EndsInInv i s') : Inv t := by
  obtain ⟨u, hexec, hinv⟩ := h
  cases hstep.symm.trans (hrun.trans hexec)
  exact hinv

/-- Settles O58: by what the step takes: a reset request, a frame, whose row is well formed, a command or
nothing. -/
theorem invKept : Obligations.InvKept := by
  unfold Obligations.InvKept
  intro s t hinv hstep
  cases hrst : s.ports.rst with
  | some c =>
    rw [step_of_rst hrst] at hstep
    cases hc : c.wellFormed with
    | true =>
      cases hstep.symm.trans (stepReset_of_wellFormed hc s)
      exact inv_resetTransaction hc s
    | false => cases hstep.symm.trans (stepReset_of_not_wellFormed hc s)
  | none =>
    cases hrx : s.ports.rx with
    | cons item rest =>
      exact inv_of_step hstep (step_of_fetch_some hrst (fetch_of_rx_cons hrx))
        (endsInInv_of_received (received_decodeLogicalFrame s.cfg _ item.last)
          (wellFormed_decodeLogicalFrame s.cfg _ item.last) (hinv.withPorts _))
    | nil =>
      cases hcmd : s.ports.cmd with
      | cons w rest =>
        exact inv_of_step hstep (step_of_fetch_some hrst (fetch_of_rx_nil_of_cmd_cons hrx hcmd))
          (endsInInv_decodeCmd (hinv.withPorts _) w)
      | nil =>
        rw [step_of_fetch_none hrst (fetch_of_rx_nil_of_cmd_nil hrx hcmd)] at hstep
        cases hstep
        exact hinv

end Sys2Proof.Machine
end
